-- ==== Sys2Proof/Word.lean ====
section
/-! DEFINITION. The plain words and numbers of the DK-816 and their plainest arithmetic. -/

namespace Sys2Proof

/-- A byte of a control-port message (R172, R173). -/
abbrev Byte := BitVec 8

/-- One of the sixteen 32-bit TDM slots of an audio frame (R1, R2). -/
abbrev TdmWord := BitVec 32

/-- A wrapping 32-bit count: the sub-block counter and the compare values (R30, R133). -/
abbrev Count32 := BitVec 32

/-- A set of the thirteen notice sources; the number of a source is its bit position (R190). -/
abbrev SourceSet := BitVec 13

/-- A programme, 0 to 7. -/
abbrev Prog := Fin 8

/-- A control port, and the station on it, 0 to 2. -/
abbrev Port := Fin 3

/-- A cue line, CUE0 to CUE3 (R142). -/
abbrev CueLine := Fin 4

/-- A link flag; flag `k` joins programmes `k` and `k+1` (R86). -/
abbrev LinkFlag := Fin 7

/-- A profile slot of a programme, 0 or 1 (R120). -/
abbrev Slot := Fin 2

/-- A claim record: 0 to 7 the programmes, 8 the device (R157, R180). -/
abbrev ClaimRecord := Fin 9

/-- An entry of the scan table: a programme, or `none` for IDLE (section 3.2). -/
abbrev ScanEntry := Option Prog

/-- The eight programmes in order of number. -/
def allProgs : List Prog := [0, 1, 2, 3, 4, 5, 6, 7]

/-- The four cue lines in order of number. -/
def allLines : List CueLine := [0, 1, 2, 3]

/-- The three ports in order of number. -/
def allPorts : List Port := [0, 1, 2]

/-- `x` limited at the high end to `hi` and at the low end to `lo`
("Clamped" in the conventions; "limited into" in R81, R89, R91, R94). -/
def limit (lo hi x : Int) : Int := max lo (min hi x)

/-- One more than `n`, saturating at `top`: "a count that saturates stops at its largest
value and does not wrap" (conventions). -/
def satSucc (top n : Nat) : Nat := min top (n + 1)

end Sys2Proof
end

