-- ==== Sys2Proof/Biquad.lean ====
section
/-! DEFINITION. Second-order filter stages and the response of two in cascade, for the weighting filter, which the manual gives by its
response (R23). -/

namespace Sys2Proof

/-- The coefficients of one second-order stage: its output is
`b0 x + b1 x1 + b2 x2 - a1 y1 - a2 y2` over its two latest inputs and outputs (R23, R24). -/
structure Biquad where
  b0 : Rat
  b1 : Rat
  b2 : Rat
  a1 : Rat
  a2 : Rat
  deriving DecidableEq, Repr, Inhabited

/-- The squared magnitude of `k0 + k1 z + k2 z^2` at the angle `w` of the unit circle. -/
noncomputable def squaredMagnitude (k0 k1 k2 w : ℝ) : ℝ :=
  (k0 + k1 * Real.cos w + k2 * Real.cos (2 * w)) ^ 2 + (k1 * Real.sin w + k2 * Real.sin (2 * w)) ^ 2

/-- The squared magnitude of the response of the stages `c` and `d` in cascade, at `hz` of a 48 kHz frame rate. -/
noncomputable def Biquad.power (c d : Biquad) (hz : Nat) : ℝ :=
  let w : ℝ := 2 * Real.pi * hz / 48000
  squaredMagnitude c.b0 c.b1 c.b2 w * squaredMagnitude d.b0 d.b1 d.b2 w /
    (squaredMagnitude 1 c.a1 c.a2 w * squaredMagnitude 1 d.a1 d.a2 w)

/-- The response of the cascade at `hz` lies within `tol` of `r`, both in 0.01 dB. -/
def Biquad.Responds (c d : Biquad) (hz : Nat) (r : Int) (tol : ℚ) : Prop :=
  0 < c.power d hz ∧ |1000 * Real.logb 10 (c.power d hz) - (r : ℝ)| ≤ (tol : ℝ)

/-- The stage's output dies away once its input is zero: both roots of `z^2 + a1 z + a2` lie inside the unit circle. -/
def Biquad.Stable (c : Biquad) : Prop := |c.a2| < 1 ∧ |c.a1| < 1 + c.a2

/-- The response table of R23: frequency in Hz at a frame rate of 48 kHz, and response in 0.01 dB. -/
def responseTable : List (Nat × Int) :=
  [(10, -2410), (20, -1240), (40, -310), (60, -120), (100, -35), (200, -8), (500, -12), (1000, 0),
   (2000, 162), (4000, 305), (8000, 368), (12000, 379), (16000, 382), (20000, 383)]

/-- The cascade meets the response table of R23 to the nearest 0.01 dB. No two second-order stages do
(`Biquad.no_pair_meets_table` of Laws/ResponseTable.lean). -/
def Biquad.MeetsResponseTable (c d : Biquad) : Prop := ∀ row ∈ responseTable, c.Responds d row.1 row.2 (1 / 2)

end Sys2Proof
end

