-- ==== Sys2Proof/Laws/Weighting.lean ====
section
/-! SUPPORT. Two second-order stages whose response lies near the table of R23: exact bounds on the cosine and on the response, by
rational arithmetic. -/

namespace Sys2Proof

/-! ### Squared magnitudes as polynomials in `1 - cos w` -/

theorem squaredMagnitude_eq (k0 k1 k2 w : ℝ) :
    squaredMagnitude k0 k1 k2 w =
      (k0 + k1 + k2) ^ 2 - (2 * k1 * (k0 + k2) + 8 * k0 * k2) * (1 - Real.cos w) +
        4 * k0 * k2 * (1 - Real.cos w) ^ 2 := by
  have h := Real.sin_sq_add_cos_sq w
  have hs : Real.sin w ^ 2 = 1 - Real.cos w ^ 2 := by linarith
  simp only [squaredMagnitude, Real.cos_two_mul, Real.sin_two_mul]
  linear_combination (k1 ^ 2 + 4 * k1 * k2 * Real.cos w + 4 * k2 ^ 2 * Real.cos w ^ 2) * hs

/-! ### Enclosures -/

/-- `x` lies between the two ends. -/
def Within (i : ℚ × ℚ) (x : ℝ) : Prop := (i.1 : ℝ) ≤ x ∧ x ≤ (i.2 : ℝ)

/-- A rational rounded down to 30 decimal places. -/
def roundDown (q : ℚ) : ℚ := (q * 10 ^ 30).floor / 10 ^ 30

theorem roundDown_le (q : ℚ) : roundDown q ≤ q := by
  unfold roundDown
  rw [div_le_iff₀ (by norm_num)]
  exact Int.floor_le (q * 10 ^ 30)

/-- An enclosure with ends of 30 decimal places. -/
def outward (i : ℚ × ℚ) : ℚ × ℚ := (roundDown i.1, -roundDown (-i.2))

theorem Within.outward {i : ℚ × ℚ} {x : ℝ} (h : Within i x) : Within (Sys2Proof.outward i) x := by
  have h1 : ((roundDown i.1 : ℚ) : ℝ) ≤ i.1 := by exact_mod_cast roundDown_le i.1
  have h2 : ((roundDown (-i.2) : ℚ) : ℝ) ≤ -i.2 := by exact_mod_cast roundDown_le (-i.2)
  refine ⟨h1.trans h.1, ?_⟩
  simp only [Sys2Proof.outward, Rat.cast_neg]
  linarith [h.2]

/-- π to twenty places. -/
def piBounds : ℚ × ℚ := (314159265358979323846 / 10 ^ 20, 314159265358979323847 / 10 ^ 20)

theorem within_pi : Within piBounds Real.pi := by
  constructor
  · have := Real.pi_gt_d20; simp only [piBounds]; push_cast; linarith
  · have := Real.pi_lt_d20; simp only [piBounds]; push_cast; linarith

/-- `1 - cos x` for an `x` of the enclosure `i`, with ends in 0..1. -/
def versineBase (i : ℚ × ℚ) : ℚ × ℚ :=
  outward (i.1 ^ 2 / 2 - i.2 ^ 4 * (5 / 96), i.2 ^ 2 / 2 + i.2 ^ 4 * (5 / 96))

theorem within_versineBase {i : ℚ × ℚ} {x : ℝ} (h : Within i x) (h0 : 0 ≤ i.1) (h1 : i.2 ≤ 1) :
    Within (versineBase i) (1 - Real.cos x) := by
  have h0' : (0 : ℝ) ≤ i.1 := by exact_mod_cast h0
  have h1' : (i.2 : ℝ) ≤ 1 := by exact_mod_cast h1
  have hx0 : 0 ≤ x := h0'.trans h.1
  have hx : |x| ≤ 1 := by rw [abs_of_nonneg hx0]; exact h.2.trans h1'
  have hc := abs_le.1 (Real.cos_bound hx)
  rw [abs_of_nonneg hx0] at hc
  have h4 : x ^ 4 ≤ (i.2 : ℝ) ^ 4 := pow_le_pow_left₀ hx0 h.2 4
  have h2 : x ^ 2 ≤ (i.2 : ℝ) ^ 2 := pow_le_pow_left₀ hx0 h.2 2
  have h2' : (i.1 : ℝ) ^ 2 ≤ x ^ 2 := pow_le_pow_left₀ h0' h.1 2
  apply Within.outward
  constructor
  · push_cast; linarith [hc.2]
  · push_cast; linarith [hc.1]

/-- `1 - cos (2 x)` from `1 - cos x` in 0..1. -/
def versineDouble (i : ℚ × ℚ) : ℚ × ℚ := outward (2 * i.1 * (2 - i.1), 2 * i.2 * (2 - i.2))

theorem within_versineDouble {i : ℚ × ℚ} {x : ℝ} (h : Within i (1 - Real.cos x)) (h1 : i.2 ≤ 1) :
    Within (versineDouble i) (1 - Real.cos (2 * x)) := by
  have h1' : (i.2 : ℝ) ≤ 1 := by exact_mod_cast h1
  have hc := Real.cos_two_mul x
  obtain ⟨ha, hb⟩ := h
  apply Within.outward
  constructor
  · push_cast; rw [hc]; nlinarith
  · push_cast; rw [hc]; nlinarith

/-- `1 - cos (2^k x)` from an enclosure of `x`. -/
def versine (i : ℚ × ℚ) : Nat → ℚ × ℚ
  | 0 => versineBase i
  | k + 1 => versineDouble (versine i k)

/-- The ends of the enclosures that `versine` passes are in range. -/
def versineOk (i : ℚ × ℚ) : Nat → Bool
  | 0 => decide (0 ≤ i.1) && decide (i.2 ≤ 1)
  | k + 1 => versineOk i k && decide ((versine i k).2 ≤ 1)

theorem within_versine {i : ℚ × ℚ} {x : ℝ} (h : Within i x) :
    ∀ k, versineOk i k = true → Within (versine i k) (1 - Real.cos (2 ^ k * x))
  | 0, ok => by
    simp only [versineOk, Bool.and_eq_true, decide_eq_true_eq] at ok
    simpa [versine] using within_versineBase h ok.1 ok.2
  | k + 1, ok => by
    simp only [versineOk, Bool.and_eq_true, decide_eq_true_eq] at ok
    have := within_versineDouble (within_versine h k ok.1) ok.2
    rwa [← mul_assoc, ← pow_succ'] at this

/-- The angle of `hz`, halved eight times. -/
def angle (hz : Nat) : ℚ × ℚ := (piBounds.1 * hz / 24000 / 2 ^ 8, piBounds.2 * hz / 24000 / 2 ^ 8)

/-- `1 - cos w` at the angle of `hz`. -/
def versineAt (hz : Nat) : ℚ × ℚ := versine (angle hz) 8

theorem within_versineAt {hz : Nat} (ok : versineOk (angle hz) 8 = true) :
    Within (versineAt hz) (1 - Real.cos (2 * Real.pi * hz / 48000)) := by
  have hp := within_pi
  have hn : (0 : ℝ) ≤ hz := Nat.cast_nonneg hz
  have h : Within (angle hz) (2 * Real.pi * hz / 48000 / 2 ^ 8) := by
    constructor
    · have := mul_le_mul_of_nonneg_right hp.1 hn
      simp only [angle]; push_cast; linarith
    · have := mul_le_mul_of_nonneg_right hp.2 hn
      simp only [angle]; push_cast; linarith
  have := within_versine h 8 ok
  rwa [mul_div_cancel₀ _ (by norm_num)] at this

/-- A squared magnitude from an enclosure of `1 - cos w` at 0 or above. -/
def squaredBounds (k0 k1 k2 : ℚ) (i : ℚ × ℚ) : ℚ × ℚ :=
  let a := (k0 + k1 + k2) ^ 2
  let b := -(2 * k1 * (k0 + k2) + 8 * k0 * k2)
  let c := 4 * k0 * k2
  (a + min (b * i.1) (b * i.2) + min (c * i.1 ^ 2) (c * i.2 ^ 2),
   a + max (b * i.1) (b * i.2) + max (c * i.1 ^ 2) (c * i.2 ^ 2))

/-- `b * u` for `u` between `l` and `h`. -/
theorem mul_between {b l h u : ℝ} (h1 : l ≤ u) (h2 : u ≤ h) : min (b * l) (b * h) ≤ b * u ∧ b * u ≤ max (b * l) (b * h) := by
  rcases le_total 0 b with hb | hb
  · exact ⟨(min_le_left _ _).trans (mul_le_mul_of_nonneg_left h1 hb), (mul_le_mul_of_nonneg_left h2 hb).trans (le_max_right _ _)⟩
  · exact ⟨(min_le_right _ _).trans (mul_le_mul_of_nonpos_left h2 hb), (mul_le_mul_of_nonpos_left h1 hb).trans (le_max_left _ _)⟩

theorem within_squaredBounds {k0 k1 k2 : ℚ} {i : ℚ × ℚ} {w : ℝ} (h : Within i (1 - Real.cos w)) (h0 : 0 ≤ i.1) :
    Within (squaredBounds k0 k1 k2 i) (squaredMagnitude k0 k1 k2 w) := by
  have h0' : (0 : ℝ) ≤ i.1 := by exact_mod_cast h0
  have hb := mul_between (b := -(2 * k1 * (k0 + k2) + 8 * k0 * k2)) h.1 h.2
  have hc := mul_between (b := 4 * k0 * k2) (pow_le_pow_left₀ h0' h.1 2) (pow_le_pow_left₀ (h0'.trans h.1) h.2 2)
  rw [squaredMagnitude_eq]
  constructor
  · simp only [squaredBounds]; push_cast; linarith [hb.1, hc.1]
  · simp only [squaredBounds]; push_cast; linarith [hb.2, hc.2]


/-! ### Responses -/

/-- The power of the cascade of `c` and `d` from an enclosure of `1 - cos w`, where the denominator is positive. -/
def powerBounds (c d : Biquad) (i : ℚ × ℚ) : ℚ × ℚ :=
  let n1 := squaredBounds c.b0 c.b1 c.b2 i
  let n2 := squaredBounds d.b0 d.b1 d.b2 i
  let d1 := squaredBounds 1 c.a1 c.a2 i
  let d2 := squaredBounds 1 d.a1 d.a2 i
  outward (n1.1 * n2.1 / (d1.2 * d2.2), n1.2 * n2.2 / (d1.1 * d2.1))

/-- The lower ends of the four squared magnitudes are positive. -/
def powerOk (c d : Biquad) (i : ℚ × ℚ) : Bool :=
  decide (0 < (squaredBounds c.b0 c.b1 c.b2 i).1) && decide (0 < (squaredBounds d.b0 d.b1 d.b2 i).1) &&
  decide (0 < (squaredBounds 1 c.a1 c.a2 i).1) && decide (0 < (squaredBounds 1 d.a1 d.a2 i).1)

theorem within_powerBounds {c d : Biquad} {hz : Nat} (ok : versineOk (angle hz) 8 = true) (h0 : 0 ≤ (versineAt hz).1)
    (okp : powerOk c d (versineAt hz) = true) : Within (powerBounds c d (versineAt hz)) (c.power d hz) := by
  have hu := within_versineAt ok
  simp only [powerOk, Bool.and_eq_true, decide_eq_true_eq] at okp
  obtain ⟨⟨⟨p1, p2⟩, p3⟩, p4⟩ := okp
  have n1 := within_squaredBounds (k0 := c.b0) (k1 := c.b1) (k2 := c.b2) hu h0
  have n2 := within_squaredBounds (k0 := d.b0) (k1 := d.b1) (k2 := d.b2) hu h0
  have d1 := within_squaredBounds (k0 := 1) (k1 := c.a1) (k2 := c.a2) hu h0
  have d2 := within_squaredBounds (k0 := 1) (k1 := d.a1) (k2 := d.a2) hu h0
  have q1 : (0 : ℝ) < (squaredBounds c.b0 c.b1 c.b2 (versineAt hz)).1 := by exact_mod_cast p1
  have q2 : (0 : ℝ) < (squaredBounds d.b0 d.b1 d.b2 (versineAt hz)).1 := by exact_mod_cast p2
  have q3 : (0 : ℝ) < (squaredBounds 1 c.a1 c.a2 (versineAt hz)).1 := by exact_mod_cast p3
  have q4 : (0 : ℝ) < (squaredBounds 1 d.a1 d.a2 (versineAt hz)).1 := by exact_mod_cast p4
  rw [Rat.cast_one] at d1 d2
  have e1 := q1.trans_le n1.1
  have e2 := q2.trans_le n2.1
  have e3 := q3.trans_le d1.1
  have e4 := q4.trans_le d2.1
  apply Within.outward
  constructor
  · push_cast
    exact div_le_div₀ (mul_pos e1 e2).le (mul_le_mul n1.1 n2.1 q2.le e1.le) (mul_pos e3 e4)
      (mul_le_mul d1.2 d2.2 e4.le (e3.le.trans d1.2))
  · push_cast
    exact div_le_div₀ (mul_nonneg (e1.le.trans n1.2) (e2.le.trans n2.2)) (mul_le_mul n1.2 n2.2 e2.le (e1.le.trans n1.2))
      (mul_pos q3 q4) (mul_le_mul d1.1 d2.1 q4.le e3.le)

/-- `10^e`. -/
def tenPow : Int → ℚ
  | .ofNat k => 10 ^ k
  | .negSucc k => 1 / 10 ^ (k + 1)

theorem tenPow_cast (e : Int) : ((tenPow e : ℚ) : ℝ) = (10 : ℝ) ^ (e : ℝ) := by
  cases e with
  | ofNat k => simp [tenPow]
  | negSucc k =>
    rw [Int.cast_negSucc, Real.rpow_neg (by norm_num)]
    simp only [tenPow]; push_cast
    rw [one_div, ← Real.rpow_natCast]; push_cast; rfl

/-- `10^(e/20000)` lies at or below a positive `x` if its 20000th power does. -/
theorem le_logb_of {p : ℚ} {e : Int} (hp : 0 < p) (h : tenPow e ≤ p ^ 20000) {x : ℝ} (hx : (p : ℝ) ≤ x) :
    (e : ℝ) ≤ 20000 * Real.logb 10 x := by
  have hp' : (0 : ℝ) < p := by exact_mod_cast hp
  have h' : ((tenPow e : ℚ) : ℝ) ≤ (p : ℝ) ^ 20000 := by exact_mod_cast h
  rw [tenPow_cast] at h'
  have h2 : (10 : ℝ) ^ (e : ℝ) ≤ x ^ 20000 := h'.trans (pow_le_pow_left₀ hp'.le hx 20000)
  have h3 := Real.logb_le_logb_of_le (by norm_num : (1 : ℝ) < 10) (Real.rpow_pos_of_pos (by norm_num) _) h2
  rw [Real.logb_rpow (by norm_num) (by norm_num), Real.logb_pow] at h3
  exact_mod_cast h3

theorem logb_le_of {p : ℚ} {e : Int} (h : p ^ 20000 ≤ tenPow e) {x : ℝ} (h0 : 0 < x) (hx : x ≤ (p : ℝ)) :
    20000 * Real.logb 10 x ≤ (e : ℝ) := by
  have h' : (p : ℝ) ^ 20000 ≤ ((tenPow e : ℚ) : ℝ) := by exact_mod_cast h
  rw [tenPow_cast] at h'
  have h2 : x ^ 20000 ≤ (10 : ℝ) ^ (e : ℝ) := (pow_le_pow_left₀ h0.le hx 20000).trans h'
  have h3 := Real.logb_le_logb_of_le (by norm_num : (1 : ℝ) < 10) (by positivity) h2
  rw [Real.logb_rpow (by norm_num) (by norm_num), Real.logb_pow] at h3
  exact_mod_cast h3

/-- The response at `hz` lies within `t / 20` of `r`, by arithmetic. -/
def respondsCheck (c d : Biquad) (hz : Nat) (r : Int) (t : Nat) : Bool :=
  let p := powerBounds c d (versineAt hz)
  versineOk (angle hz) 8 && decide (0 ≤ (versineAt hz).1) && powerOk c d (versineAt hz) && decide (0 < p.1) &&
  decide (tenPow (20 * r - t) ≤ p.1 ^ 20000) && decide (p.2 ^ 20000 ≤ tenPow (20 * r + t))

theorem responds_of_check {c d : Biquad} {hz : Nat} {r : Int} {t : Nat} (h : respondsCheck c d hz r t = true) :
    c.Responds d hz r (t / 20) := by
  simp only [respondsCheck, Bool.and_eq_true, decide_eq_true_eq] at h
  obtain ⟨⟨⟨⟨⟨ok, h0⟩, okp⟩, hp⟩, hl⟩, hh⟩ := h
  have hw := within_powerBounds (c := c) (d := d) ok h0 okp
  have hp' : (0 : ℝ) < (powerBounds c d (versineAt hz)).1 := by exact_mod_cast hp
  have hx := hp'.trans_le hw.1
  have a := le_logb_of hp hl hw.1
  have b := logb_le_of hh hx hw.2
  refine ⟨hx, abs_le.2 ?_⟩
  push_cast at a b ⊢
  constructor <;> linarith

/-- A high-shelf stage near the table. -/
def fittedShelf : Biquad :=
  { b0 := 146410808116928 / 10 ^ 14, b1 := -256347292232961 / 10 ^ 14, b2 := 112945824436746 / 10 ^ 14
    a1 := -165048242774599 / 10 ^ 14, a2 := 68024490139207 / 10 ^ 14 }

/-- A high-pass stage near the table. -/
def fittedHighPass : Biquad :=
  { b0 := 1, b1 := -199997450234939 / 10 ^ 14, b2 := 99997712019713 / 10 ^ 14
    a1 := -199368099792468 / 10 ^ 14, a2 := 99369476927071 / 10 ^ 14 }

theorem fitted_normalised : fittedShelf.Responds fittedHighPass 1000 0 (1 / 2) := by
  have := responds_of_check (c := fittedShelf) (d := fittedHighPass) (hz := 1000) (r := 0) (t := 10) (by decide +kernel)
  norm_num at this
  exact this

theorem fitted_near : ∀ row ∈ responseTable, fittedShelf.Responds fittedHighPass row.1 row.2 (31 / 10) := by
  have h : ∀ row ∈ responseTable, respondsCheck fittedShelf fittedHighPass row.1 row.2 62 = true := by decide +kernel
  intro row hr
  have := responds_of_check (h row hr)
  norm_num at this
  exact this

theorem fitted_stable : fittedShelf.Stable ∧ fittedHighPass.Stable := by
  refine ⟨⟨?_, ?_⟩, ?_, ?_⟩ <;> norm_num [fittedShelf, fittedHighPass, abs_lt]


end Sys2Proof
end

