-- ==== Sys2Proof/Config.lean ====
section
/-! DEFINITION. What the part fixes once: the control-clock terms, and the weighting
filter, free but for the response that the manual gives it (R23). -/

namespace Sys2Proof

/-- Cycles of the 24.576 MHz control clock in a millisecond (00_scope.md, "control clock"). -/
def cyclesPerMs : Nat := 24576

/-- The loss timer, and the longest gap of a running return measurement: 1 ms (R4, R6). -/
def lossCycles : Nat := cyclesPerMs

/-- The length of a return measurement: 10 ms (R6). -/
def returnCycles : Nat := 10 * cyclesPerMs

/-- The silence timer: 5.0 s (R165). -/
def silenceCycles : Nat := 5000 * cyclesPerMs

/-- The inter-byte timer expires when the gap exceeds 2 ms, that is, at the first cycle beyond it (R175). -/
def interByteCycles : Nat := 2 * cyclesPerMs + 1

/-- What R23 fixes of the weighting filter: two stages, the same for every channel, normalised to 0.00 dB at 1 kHz, with the response
of its table. No two second-order stages meet every row of the table (`Biquad.no_pair_meets_table`), so the pair lies within 0.031 dB of
each (DEDUCED, log entry 1). The defaults only show that there is such a pair. -/
structure Weighting where
  shelf : Biquad := fittedShelf
  highPass : Biquad := fittedHighPass
  stable : shelf.Stable ∧ highPass.Stable := by exact fitted_stable
  normalised : shelf.Responds highPass 1000 0 (1 / 2) := by exact fitted_normalised
  near : ∀ row ∈ responseTable, shelf.Responds highPass row.1 row.2 (31 / 10) := by exact fitted_near
  deriving Inhabited

/-- FREE (log entry 1): the two stages, of which the manual gives the response and no coefficient (R23). -/
opaque Config.weighting : Weighting

/-- The high-shelf stage (R23). -/
def Config.shelf : Biquad := Config.weighting.shelf

/-- The high-pass stage (R23). -/
def Config.highPass : Biquad := Config.weighting.highPass

end Sys2Proof
end

