-- ==== Sys2Proof/Machine/Levels.lean ====
section
/-! DEFINITION. The exact logarithms and powers of the manual: the level function (R28), the gain factor
(R102), the representative energies (R63), the ceiling value (R108) and the limiter's reductions (R109, R111).
Every rounding is decided by comparing integers, so no approximation stands anywhere. The six functions that the rest of the
model calls are irreducible, so that no proof computes them by accident. -/

namespace Sys2Proof.Machine

/-- The greatest `k` in `x .. x + 2^bits - 1` that passes `P`, by setting its bits from the highest down;
`P` holds at `x` and never holds above a number where it fails. -/
def greatest (P : Nat → Bool) : Nat → Nat → Nat
  | 0, x => x
  | bits + 1, x => greatest P bits (if P (x + 2 ^ bits) then x + 2 ^ bits else x)

/-- `10^e * b ≤ a`, for a negative `e` too. -/
def timesPow10Le (b : Nat) (e : Int) (a : Nat) : Bool :=
  match e with
  | .ofNat k => decide (b * 10 ^ k ≤ a)
  | .negSucc k => decide (b ≤ a * 10 ^ (k + 1))

/-- `a ≤ 2^k * 10^(e/n)`, compared as `n`-th powers. -/
def powBelow (k n : Nat) (e : Int) (a : Nat) : Bool := timesPow10Le (a ^ n) (-e) (2 ^ (k * n))

/-- The integer part of `2^k * 10^(e/n)`, for a value below `2^bits`. -/
def floorPow10 (k n : Nat) (e : Int) (bits : Nat) : Nat := greatest (powBelow k n e) bits 0

/-- The nearest integer to `2^k * 10^(e/n)`, from the integer part of its double. -/
def nearestPow10 (k n : Nat) (e : Int) (bits : Nat) : Nat := (floorPow10 (k + 1) n e (bits + 1) + 1) / 2

/-- The offset from which `floorLog2000` searches; every logarithm the part takes lies within it. -/
def logOffset : Nat := 32768

/-- The integer part of `2000 * log10 (a / b)`, for `a` and `b` at least 1. -/
def floorLog2000 (a b : Nat) : Int :=
  (greatest (fun k => timesPow10Le (b ^ 2000) ((k : Int) - logOffset) (a ^ 2000)) 16 0 : Int) - logOffset

/-- The silence level (R28). -/
def silenceLevel : Int := -12000

/-- The full-scale reference power, `2^30` (conventions). -/
def fullScale : Nat := 2 ^ 30

/-- The largest energy (R26). -/
def maxEnergy : Nat := 2 ^ 31 - 1

/-- The level of an energy (R28): `1000 * log10 (E / 2^30)` to the nearest integer, halves rounded
toward +∞. -/
@[irreducible] def level (e : Nat) : Int := if e = 0 then silenceLevel else (floorLog2000 e fullScale + 1) / 2

/-- Unity gain, `2^22` (R102). -/
def unity : Nat := 2 ^ 22

/-- The factor of a gain `g` in 0.01 dB (R102). -/
@[irreducible] def factor (g : Int) : Nat := nearestPow10 22 2000 g 24

/-- The representative energy of bin `i` (R63): `2^30 * 10^((-7000 + 25 i + 12.5)/1000)`. -/
@[irreducible] def representative (i : Nat) : Nat := nearestPow10 30 2000 (-13975 + 50 * i) 32

/-- The largest sample (R108). -/
def maxSample : Nat := 2 ^ 23 - 1

/-- The ceiling value C of a ceiling in 0.01 dB (R108). -/
@[irreducible] def ceilingValue (ceiling : Int) : Nat := min (floorPow10 23 2000 ceiling 24) maxSample

/-- The reduction `q` that a magnitude `m` needs under the ceiling value `c` (R109):
`2000 * log10 (m / c)` rounded up. -/
@[irreducible] def reductionFor (c m : Nat) : Nat := if m ≤ c then 0 else (-(floorLog2000 c m)).toNat

/-- The reducing factor `r` of a limiter reduction of `d` steps of 1/48 of 0.01 dB (R111). -/
@[irreducible] def reducingFactor (d : Nat) : Nat := if d = 0 then unity else nearestPow10 22 96000 (-d) 23

/-- The integer nearest to `x`, halves rounded away from zero (R23). -/
def roundAway (x : Rat) : Int := if 0 ≤ x then (x + 1 / 2).floor else -(-x + 1 / 2).floor

end Sys2Proof.Machine
end

