-- ==== Sys2Proof/Syntax.lean ====
section
/-! DEFINITION. The commands of the DK-816: one constructor per row of spec/opcode_table.json. -/

namespace Sys2Proof

/-- The fourteen numeric fields of a profile slot, in the order of R121. -/
inductive Field
  | target | ceiling | gainMin | gainMax | upRate | downRate | deadband | holdThreshold
  | warnDev | faultDev | faultVisits | settleTol | settleCount | release
  deriving DecidableEq, Repr

/-- An item of a WRITE_PROFILE payload (R184): a numeric field or the steering with a 16-bit value, or the
label with its characters. -/
inductive ProfileItem
  | number (f : Field) (v : Int)
  | steering (v : Int)
  | label (chars : List Byte)
  deriving DecidableEq, Repr

/-- Why a message in progress is discarded silently (R175). -/
inductive DiscardCause
  /-- The LENGTH byte lies outside 2..50. -/
  | badLength
  /-- A byte's stop bit was sampled low (R171). -/
  | framingError
  /-- The CHECK byte differs from the CRC of the covered bytes (R174). -/
  | badCheck
  deriving DecidableEq, Repr

/-- The commands. The first group are pin, clock and internal events; the twenty-eight requests stand for
the arrival of the last byte of a well-formed message with that CODE on `port`, and carry its TARGET and
PAYLOAD bytes as received (R172, R176). -/
inductive Instr
  /-- POWER_ON (R200). `straps` are the levels of ACC0..ACC2 at the end of the hold, bit `s` for `ACCs`. -/
  | powerOn (straps : BitVec 3)
  /-- PIN_RESET (R200): RST_N is driven low. -/
  | pinReset
  /-- RESET_END (R200): the hold of a power-on or pin reset ends. -/
  | resetEnd
  /-- FRAME_SYNC (R1, R4, R6): a frame sync is seen on TIN_FS. -/
  | frameSync
  /-- INPUT_FRAME (R1): the last bit of slot 15 arrives; `slots` are the sixteen 32-bit slots of the frame. -/
  | inputFrame (slots : Vector TdmWord 16)
  /-- RAMP_END (R105) of programme `p`. -/
  | rampEnd (p : Prog)
  /-- SUBBLOCK_COMPLETION (R29) of programme `p`. -/
  | subblockCompletion (p : Prog)
  /-- SCAN_TICK (R39, R46): the scan divider expires. -/
  | scanTick
  /-- CLOCK_LOSS_DECLARATION (R4, R5): the 1 ms loss timer expires. -/
  | clockLossDeclaration
  /-- RETURN_MEASUREMENT_STOP (R6): 1 ms passed with no frame sync while LOST. -/
  | returnMeasurementStop
  /-- CLOCK_RETURN_DECLARATION (R6, R7): a return measurement has run for 10 ms. -/
  | clockReturnDeclaration
  /-- CUE_ASSERTION (R145, R147): the sample that qualifies an assertion of line `l`. -/
  | cueAssertion (l : CueLine)
  /-- CUE_RELEASE (R146, R148): the sample that qualifies a release of line `l`. -/
  | cueRelease (l : CueLine)
  /-- STATION_ABSENCE (R166): the silence timer of `port` expires. -/
  | stationAbsence (port : Port)
  /-- INTER_BYTE_TIMEOUT (R175): the inter-byte timer of `port` expires. -/
  | interByteTimeout (port : Port)
  /-- MESSAGE_DISCARD (R175): the message in progress on `port` is discarded for `cause`. -/
  | messageDiscard (port : Port) (cause : DiscardCause)
  /-- SERVING_DISCARD (R176): a well-formed message completes while `port` is SERVING. -/
  | servingDiscard (port : Port)
  /-- UNKNOWN_REQUEST (R179): a well-formed message whose CODE is none of the twenty-eight. -/
  | unknownRequest (port : Port) (code target : Byte) (payload : List Byte)
  /-- RESPONSE_END (R176): the stop bit of the response's CHECK byte has been sent on `port`. -/
  | responseEnd (port : Port)
  /-- REQUESTED_RESET (R187): the held RESET_DEVICE acts, its response having been sent. -/
  | requestedReset
  /-- READ_PROGRAMME (R182). -/
  | readProgramme (port : Port) (target : Byte) (payload : List Byte)
  /-- READ_PROFILE (R131, R186). -/
  | readProfile (port : Port) (target : Byte) (payload : List Byte)
  /-- READ_HISTOGRAM (R75, R186). -/
  | readHistogram (port : Port) (target : Byte) (payload : List Byte)
  /-- READ_CUE_LOG (R154, R186). -/
  | readCueLog (port : Port) (target : Byte) (payload : List Byte)
  /-- READ_DEVICE (R183). -/
  | readDevice (port : Port) (target : Byte) (payload : List Byte)
  /-- READ_NOTICES (R199). -/
  | readNotices (port : Port) (target : Byte) (payload : List Byte)
  /-- CLAIM (R158). -/
  | claim (port : Port) (target : Byte) (payload : List Byte)
  /-- RELEASE (R159). -/
  | release (port : Port) (target : Byte) (payload : List Byte)
  /-- SET_MODE (R10). -/
  | setMode (port : Port) (target : Byte) (payload : List Byte)
  /-- WRITE_PROFILE (R125, R184). -/
  | writeProfile (port : Port) (target : Byte) (payload : List Byte)
  /-- COPY_PROFILE (R129). -/
  | copyProfile (port : Port) (target : Byte) (payload : List Byte)
  /-- SET_TRIM (R132). -/
  | setTrim (port : Port) (target : Byte) (payload : List Byte)
  /-- SET_SCHEDULE (R134). -/
  | setSchedule (port : Port) (target : Byte) (payload : List Byte)
  /-- FORCE_SLOT (R138). -/
  | forceSlot (port : Port) (target : Byte) (payload : List Byte)
  /-- SET_COUNT (R139). -/
  | setCount (port : Port) (target : Byte) (payload : List Byte)
  /-- RESTART_SEGMENT (R69). -/
  | restartSegment (port : Port) (target : Byte) (payload : List Byte)
  /-- PAUSE (R16). -/
  | pause (port : Port) (target : Byte) (payload : List Byte)
  /-- RESUME (R16). -/
  | resume (port : Port) (target : Byte) (payload : List Byte)
  /-- RESET_PROGRAMME (R18). -/
  | resetProgramme (port : Port) (target : Byte) (payload : List Byte)
  /-- SET_LINK (R88). -/
  | setLink (port : Port) (target : Byte) (payload : List Byte)
  /-- LOAD_SCAN_TABLE (R44, R185). -/
  | loadScanTable (port : Port) (target : Byte) (payload : List Byte)
  /-- SET_SCAN_PERIOD (R40). -/
  | setScanPeriod (port : Port) (target : Byte) (payload : List Byte)
  /-- CONFIG_CUE (R143). -/
  | configCue (port : Port) (target : Byte) (payload : List Byte)
  /-- DROP_CUE_ENTRIES (R155). -/
  | dropCueEntries (port : Port) (target : Byte) (payload : List Byte)
  /-- RESET_DEVICE (R187). -/
  | resetDevice (port : Port) (target : Byte) (payload : List Byte)
  /-- SET_NOTICE_MASK (R195). -/
  | setNoticeMask (port : Port) (target : Byte) (payload : List Byte)
  /-- SET_NOTICE_MODE (R196). -/
  | setNoticeMode (port : Port) (target : Byte) (payload : List Byte)
  /-- ACK_NOTICES (R197). -/
  | ackNotices (port : Port) (target : Byte) (payload : List Byte)
  /-- CUE_LINE_SAMPLE (R145): one sampling instant; bit `l` of `pins` is the level of CUE`l`. -/
  | cueLineSample (pins : BitVec 4)
  /-- BYTE_RECEIVED (R175): a byte with a good stop bit arrives on `port`. -/
  | byteReceived (port : Port) (b : Byte)
  deriving DecidableEq, Repr

end Sys2Proof
end

