-- ==== Sys2Proof/Machine/State.lean ====
section
/-! DEFINITION. The state of the DK-816 as plain data: what every block of the block diagram holds, the
reasons a step can stop, and the state right after reset. -/

namespace Sys2Proof.Machine

/-- The mode of a programme (R9). -/
inductive Mode | off | measure | active
  deriving DecidableEq, Repr

/-- The reading the desired gain follows (R79, R121). -/
inductive Steering | short | integrated
  deriving DecidableEq, Repr

/-- The deviation state (R97). -/
inductive Deviation | normal | warn | fault
  deriving DecidableEq, Repr

/-- The active level of a cue line (R142). -/
inductive Polarity | activeHigh | activeLow
  deriving DecidableEq, Repr

/-- The action of a cue line (R142). -/
inductive CueAction | nothing | restart | swap | pause
  deriving DecidableEq, Repr

/-- The transition a cue log entry records (R150). -/
inductive CueKind | asserted | released
  deriving DecidableEq, Repr

/-- The access class of a port (R178). -/
inductive Access | full | readOnly
  deriving DecidableEq, Repr

/-- The kind of a reset (R201). -/
inductive ResetKind | powerOn | pin | request
  deriving DecidableEq, Repr

/-- One profile slot: fifteen fields and an optional label (R120 to R122). -/
structure Profile where
  target : Int
  ceiling : Int
  gainMin : Int
  gainMax : Int
  upRate : Int
  downRate : Int
  deadband : Int
  holdThreshold : Int
  steering : Steering
  warnDev : Int
  faultDev : Int
  faultVisits : Int
  settleTol : Int
  settleCount : Int
  release : Int
  label : Option (List Byte)
  deriving DecidableEq, Repr

/-- The schedule comparator of a programme (R133). -/
structure Schedule where
  compareA : Count32
  compareB : Count32
  increment : Count32
  enabled : Bool
  deriving DecidableEq, Repr

/-- The two latest inputs and outputs of one stage of the weighting filter (R24), in units of `2^-31` of
full scale. -/
structure StageState where
  x1 : Int
  x2 : Int
  y1 : Int
  y2 : Int
  deriving DecidableEq, Repr

/-- The filter state of one channel: the high-shelf stage and the high-pass stage (section 2.2, R24). -/
structure ChannelFilter where
  shelf : StageState
  highPass : StageState
  deriving DecidableEq, Repr

/-- The front end of a programme (section 2.1). The sums are exact, in units of `2^-62` of full-scale power
(R25). `frameCount` stands at 4800 between the frame that fills a sub-block and its completion (R29). -/
structure FrontEnd where
  filterL : ChannelFilter
  filterR : ChannelFilter
  sumL : Nat
  sumR : Nat
  frameCount : Nat
  counter : Count32
  deriving DecidableEq, Repr

/-- A sub-block record (R31). -/
structure SubBlock where
  energy : Nat
  counter : Count32
  deriving DecidableEq, Repr

/-- An energy ring of the window store, oldest energy first, with its sum (R49, R50). -/
structure Ring where
  cells : List Nat
  sum : Nat
  deriving DecidableEq, Repr

/-- The gating histogram of a programme (R58). -/
structure Histogram where
  bins : Vector Nat 292
  below : Nat
  deriving DecidableEq, Repr

/-- A stereo pair of samples. -/
structure Pair where
  l : Int
  r : Int
  deriving DecidableEq, Repr

/-- A ramp record (R103). `left` stands at 0 between a ramp's last frame and its end (R105). -/
structure Ramp where
  start : Nat
  fin : Nat
  left : Nat
  deriving DecidableEq, Repr

/-- The output stage of a programme (chapter 6) with both delay branches (R3). `reduction` and `peak` are
the limiter reduction D and the peak reduction in steps of 1/48 of 0.01 dB (R110, R115). -/
structure OutputStage where
  applied : Nat
  ramp : Option Ramp
  line : List Pair
  pipeline : List Pair
  bypass : List Pair
  reduction : Nat
  peak : Nat
  clips : Nat
  deriving DecidableEq, Repr

/-- Everything the part holds for one programme. -/
structure Programme where
  mode : Mode
  requestPause : Bool
  cuePause : Nat
  front : FrontEnd
  queue : List SubBlock
  lost : Nat
  momentary : Ring
  shortTerm : Ring
  histogram : Histogram
  readingM : Option Int
  readingS : Option Int
  readingI : Option Int
  gcur : Int
  gd : Option Int
  trim : Int
  deviation : Deviation
  faultCount : Nat
  settleCount : Nat
  settled : Bool
  out : OutputStage
  slots : Vector Profile 2
  inService : Slot
  schedule : Schedule
  deriving DecidableEq, Repr

/-- A return measurement in progress (R6): control-clock cycles since its first sync and since its latest. -/
structure ReturnMeasurement where
  run : Nat
  sinceSync : Nat
  deriving DecidableEq, Repr

/-- The audio clock monitor (R4, R6): PRESENT with the cycles left of the loss timer, or LOST with its
return measurement, idle or running. -/
inductive Monitor
  | present (lossTimer : Nat)
  | lost (measurement : Option ReturnMeasurement)
  deriving DecidableEq, Repr

/-- The scan engine: the divider's reload value and count (R39), the scan table and its next-entry index
(R43). The table's length is the length of the list. -/
structure ScanEngine where
  reload : Nat
  count : Nat
  table : List ScanEntry
  next : Nat
  deriving DecidableEq, Repr

/-- The configuration of a cue line (R142). -/
structure CueConfig where
  enabled : Bool
  programme : Prog
  polarity : Polarity
  width : Nat
  action : CueAction
  captureRelease : Bool
  deriving DecidableEq, Repr

/-- A cue line: its configuration and its qualification state (R142). `run` is the width measurement, as the
number of samples its unbroken run has taken so far; 0 is idle (R145). -/
structure CueState where
  config : CueConfig
  asserted : Bool
  run : Nat
  deriving DecidableEq, Repr

/-- An entry of the cue log (R150). -/
structure CueEntry where
  line : CueLine
  kind : CueKind
  programme : Prog
  counter : Count32
  offset : Option Nat
  action : CueAction
  gap : Bool
  deriving DecidableEq, Repr

/-- The receive half of a port (R175): IDLE, or RECEIVING with the bytes stored since the SYNC, first one
first, and the cycles left of the inter-byte timer. -/
inductive Receiving
  | idle
  | receiving (bytes : List Byte) (timer : Nat)
  deriving DecidableEq, Repr

/-- The presence of a port's station (R165): PRESENT with the cycles left of the silence timer, or ABSENT. -/
inductive Presence
  | present (timer : Nat)
  | absent
  deriving DecidableEq, Repr

/-- A control port. `serving` is the serving flag of R176: set while it holds the response being sent, as the
bytes of the whole message from SYNC to CHECK. `overtaken` is no register of the part but the model's book of its queue: a
well-formed message, or a reset, came while the silence timer had run out, so that the STATION_ABSENCE that waits for that expiry
changes nothing (R168, log entry 25). -/
structure PortState where
  access : Access
  receive : Receiving
  serving : Option (List Byte)
  presence : Presence
  overtaken : Bool
  deriving DecidableEq, Repr

/-- The notice state of one station (R191). A condition in `modes` is in LEVEL mode. -/
structure Notice where
  mask : SourceSet
  modes : SourceSet
  pending : SourceSet
  deriving DecidableEq, Repr

/-- The reset record (R201). -/
structure ResetRecord where
  kind : ResetKind
  station : Option Port
  deriving DecidableEq, Repr

/-- The DK-816. `held` is the reset hold of R200. `resetRequest` is a RESET_DEVICE that waits for its response
to end, with its station (R187). `frameOpen` says that a frame's sync has been seen while PRESENT and its slot
15 is still to come (R1). `tdmOut` is the frame last sent on the output port, and `none` while the port holds its
lines low (R2). `pending` is the queue of waiting commands, the model's own. -/
structure State where
  held : Bool
  record : ResetRecord
  resetRequest : Option Port
  monitor : Monitor
  frameOpen : Bool
  tdmOut : Option (Vector TdmWord 16)
  progs : Vector Programme 8
  links : Vector Bool 7
  scan : ScanEngine
  cues : Vector CueState 4
  cueLog : List CueEntry
  gapMark : Bool
  claims : Vector (Option Port) 9
  ports : Vector PortState 3
  notices : Vector Notice 3
  pending : List Instr
  deriving DecidableEq, Repr

/-- The reasons a step can fault: none. The manual describes no condition on which the part stops; every
command of the table has an effect in every state, if only to change nothing. -/
inductive Fault
  deriving DecidableEq, Repr

/-- The reasons a step can be refused. -/
inductive Refusal
  /-- Raised only by `exec`, for a command that has no meaning yet. Safe: the model stops where the part goes
  on. No arm raises it now. -/
  | notModelled (mnemonic : String)
  deriving DecidableEq, Repr

/-! ### The reset values -/

/-- The defaults of R121, with the label absent. -/
def Profile.default : Profile where
  target := -2300
  ceiling := -100
  gainMin := -1200
  gainMax := 600
  upRate := 5
  downRate := 20
  deadband := 50
  holdThreshold := -4500
  steering := .integrated
  warnDev := 300
  faultDev := 800
  faultVisits := 30
  settleTol := 100
  settleCount := 9
  release := 20
  label := none

/-- A disabled comparator with all values 0 (R133). -/
def Schedule.reset : Schedule where
  compareA := 0
  compareB := 0
  increment := 0
  enabled := false

/-- A cleared filter stage (R24). -/
def StageState.clear : StageState where
  x1 := 0
  x2 := 0
  y1 := 0
  y2 := 0

/-- A cleared channel filter (R24). -/
def ChannelFilter.clear : ChannelFilter where
  shelf := .clear
  highPass := .clear

/-- R38. -/
def FrontEnd.reset : FrontEnd where
  filterL := .clear
  filterR := .clear
  sumL := 0
  sumR := 0
  frameCount := 0
  counter := 0

/-- An empty ring (R56). -/
def Ring.empty : Ring where
  cells := []
  sum := 0

/-- An empty histogram (R74). -/
def Histogram.empty : Histogram where
  bins := Vector.replicate 292 0
  below := 0

/-- A pair of zeros. -/
def Pair.zero : Pair where
  l := 0
  r := 0

/-- R20, R103, R107: unity, no ramp, both branches filled with zeros. Unity is the factor `2^22` (R102). -/
def OutputStage.reset : OutputStage where
  applied := 2 ^ 22
  ramp := none
  line := List.replicate 48 .zero
  pipeline := List.replicate 2 .zero
  bypass := List.replicate 50 .zero
  reduction := 0
  peak := 0
  clips := 0

/-- A programme after any reset (R20, R38, R56, R74, R101, R123). -/
def Programme.reset : Programme where
  mode := .off
  requestPause := false
  cuePause := 0
  front := .reset
  queue := []
  lost := 0
  momentary := .empty
  shortTerm := .empty
  histogram := .empty
  readingM := none
  readingS := none
  readingI := none
  gcur := 0
  gd := none
  trim := 0
  deviation := .normal
  faultCount := 0
  settleCount := 0
  settled := false
  out := .reset
  slots := Vector.replicate 2 .default
  inService := 0
  schedule := .reset

/-- R42, R43. -/
def ScanEngine.reset : ScanEngine where
  reload := 600
  count := 600
  table := allProgs.map some
  next := 0

/-- A cue line after any reset (R142). -/
def CueState.reset : CueState where
  config := { enabled := false, programme := 0, polarity := .activeHigh, width := 0, action := .nothing,
              captureRelease := false }
  asserted := false
  run := 0

/-- A port after a reset that leaves it the class `access` (R170, R175, R188). -/
def PortState.reset (access : Access) : PortState where
  access := access
  receive := .idle
  serving := none
  presence := .present silenceCycles
  overtaken := false

/-- The notice state after any reset: mask and pending set {DEVICE_RESET}, mode set empty (R202). -/
def Notice.reset : Notice where
  mask := 1
  modes := 0
  pending := 1

/-- The machine right after a power-on whose hold has ended, the straps held low (R20, R21, R38, R42, R43, R56, R74,
R101, R123, R133, R142, R150, R170, R201, R202). The access classes have no reset value of their own: FULL is the
class of a strap held low (DESIGN CHOICE, log entry 2). -/
def State.reset : State where
  held := false
  record := { kind := .powerOn, station := none }
  resetRequest := none
  monitor := .lost none
  frameOpen := false
  tdmOut := none
  progs := Vector.replicate 8 .reset
  links := Vector.replicate 7 false
  scan := .reset
  cues := Vector.replicate 4 .reset
  cueLog := []
  gapMark := false
  claims := Vector.replicate 9 none
  ports := Vector.replicate 3 (.reset .full)
  notices := Vector.replicate 3 .reset
  pending := []

end Sys2Proof.Machine
end

