-- ==== Sys2Proof/Machine/Ops.lean ====
section
/-! DEFINITION. The named reads and writes of the state's registers: every block is reached through these. -/

namespace Sys2Proof.Machine

/-! ### Programmes, ports, cue lines, claims and notice sets by number -/

/-- What the part holds for programme `p`. -/
def State.prog (s : State) (p : Prog) : Programme := s.progs[p]

/-- Every programme rewritten by its own function. -/
def State.mapProgs (s : State) (f : Prog → Programme → Programme) : State :=
  { s with progs := Vector.ofFn fun p => f p (s.prog p) }

/-- Programme `p` rewritten by `f`. -/
def State.onProg (s : State) (p : Prog) (f : Programme → Programme) : State :=
  s.mapProgs fun q P => if q = p then f P else P

/-- Port `p` and its station's presence. -/
def State.port (s : State) (p : Port) : PortState := s.ports[p]

/-- Port `p` rewritten by `f`. -/
def State.onPort (s : State) (p : Port) (f : PortState → PortState) : State :=
  { s with ports := Vector.ofFn fun q => if q = p then f (s.port q) else s.port q }

/-- Cue line `l`. -/
def State.cue (s : State) (l : CueLine) : CueState := s.cues[l]

/-- Cue line `l` rewritten by `f`. -/
def State.onCue (s : State) (l : CueLine) (f : CueState → CueState) : State :=
  { s with cues := Vector.ofFn fun k => if k = l then f (s.cue k) else s.cue k }

/-- The holder of claim record `r`, absent when the claim is free (R157). -/
def State.holder (s : State) (r : ClaimRecord) : Option Port := s.claims[r]

/-- Claim record `r` given the holder `h`. -/
def State.setHolder (s : State) (r : ClaimRecord) (h : Option Port) : State :=
  { s with claims := Vector.ofFn fun q => if q = r then h else s.holder q }

/-- The notice sets of station `p` (R191). -/
def State.notice (s : State) (p : Port) : Notice := s.notices[p]

/-- Every station's notice sets rewritten by its own function. -/
def State.mapNotices (s : State) (f : Port → Notice → Notice) : State :=
  { s with notices := Vector.ofFn fun p => f p (s.notice p) }

/-- The claim record of a programme (R157). -/
def progRecord (p : Prog) : ClaimRecord := ⟨p.val, by omega⟩

/-- The claim record of the device (R157). -/
def deviceRecord : ClaimRecord := 8

/-- The audio clock monitor is LOST (R4). -/
def State.clockLost (s : State) : Bool :=
  match s.monitor with
  | .present _ => false
  | .lost _ => true

/-- Link flag `k`, for any number; there is no flag outside 0..6 (R86). -/
def State.link (s : State) (k : Nat) : Bool := if h : k < 7 then s.links[k] else false

/-- Attention line `s` is asserted exactly when station `s`'s pending set is nonempty (R198). -/
def State.attention (s : State) (p : Port) : Bool := (s.notice p).pending ≠ 0

/-- The level of the pin ATNs, `true` for high: low while the line is asserted and high while it is not (R198). -/
def State.attentionPin (s : State) (p : Port) : Bool := !s.attention p

/-- The port is ABSENT (R165). -/
def PortState.isAbsent (p : PortState) : Bool :=
  match p.presence with
  | .present _ => false
  | .absent => true

/-- The silence timer has run out, and its expiry waits to be taken (R166). -/
def PortState.runOut (p : PortState) : Bool := p.presence = .present 0

/-- An expiry that waits has been overtaken by a message or a reset, now or before (R168, log entry 25). -/
def PortState.passed (p : PortState) : Bool := p.overtaken || p.runOut

/-! ### A programme's own registers -/

/-- The profile slot in service (R120). -/
def Programme.profile (P : Programme) : Profile := P.slots[P.inService]

/-- The programme is paused (R16). -/
def Programme.paused (P : Programme) : Bool := P.requestPause || P.cuePause ≠ 0

/-- The partial sub-block is discarded (R27). -/
def FrontEnd.discard (f : FrontEnd) : FrontEnd := { f with sumL := 0, sumR := 0, frameCount := 0 }

/-- The weighting filter state of both channels is set to zero (R24). -/
def FrontEnd.clearFilter (f : FrontEnd) : FrontEnd := { f with filterL := .clear, filterR := .clear }

/-- A ramp of 480 frames from the factor in force toward `fin` (R104). The factor in force is the applied factor, which R103 and R104
call the one of the last pair gained: where R106 has set it at once and no pair has been gained since, the ramp starts from the
factor just set (DESIGN CHOICE, log entry 26). -/
def OutputStage.startRamp (o : OutputStage) (fin : Nat) : OutputStage :=
  { o with ramp := some { start := o.applied, fin := fin, left := 480 } }

/-- The applied factor set without a ramp (R106). -/
def OutputStage.setFactor (o : OutputStage) (f : Nat) : OutputStage := { o with applied := f, ramp := none }

/-- The lookahead line and the output pipeline filled with zeros (R107). -/
def OutputStage.fillProcessed (o : OutputStage) : OutputStage :=
  { o with line := List.replicate 48 .zero, pipeline := List.replicate 2 .zero }

/-- The bypass branch filled with zeros (R7). -/
def OutputStage.fillBypass (o : OutputStage) : OutputStage := { o with bypass := List.replicate 50 .zero }

/-- The ramp in progress completes at once (R7, R106). -/
def OutputStage.completeRamp (o : OutputStage) : OutputStage :=
  match o.ramp with
  | some r => o.setFactor r.fin
  | none => o

/-- Gcur becomes `g` (R85): in MEASURE and ACTIVE a change starts a ramp toward its factor (R104), in OFF it
leaves the frozen output stage alone, and a Gcur that keeps its value starts nothing. -/
def Programme.moveGain (g : Int) (P : Programme) : Programme :=
  if P.gcur = g then P
  else if P.mode = .off then { P with gcur := g }
  else { P with gcur := g, out := P.out.startRamp (factor g) }

/-- The settle counter becomes 0 and the settled flag false (R100). -/
def Programme.unsettle (P : Programme) : Programme := { P with settleCount := 0, settled := false }

/-- A segment restart (R68): the histogram, I and the limiter statistics are cleared. -/
def Programme.restartSegment (P : Programme) : Programme :=
  { P with histogram := .empty, readingI := none, out := { P.out with peak := 0, clips := 0 } }

/-- The other of the two slots. -/
def otherSlot (i : Slot) : Slot := if i = 0 then 1 else 0

end Sys2Proof.Machine
end

