-- ==== Sys2Proof/Machine/Flags.lean ====
section
/-! DEFINITION. The notice unit: the thirteen sources, the firing of events and the following of conditions
(R190 to R193). -/

namespace Sys2Proof.Machine

/-- The notice sources of R190. -/
inductive Source
  | deviceReset | clockLost | deviationWarn | deviationFault | settledChange | subblockLost | cueBacklog
  | cueOverflow | slotSwitched | claimChanged | stationAbsent | limiterHeavy | outputClipped
  deriving DecidableEq, Repr

/-- The number of a source (R190). -/
def Source.num : Source → Nat
  | .deviceReset => 0
  | .clockLost => 1
  | .deviationWarn => 2
  | .deviationFault => 3
  | .settledChange => 4
  | .subblockLost => 5
  | .cueBacklog => 6
  | .cueOverflow => 7
  | .slotSwitched => 8
  | .claimChanged => 9
  | .stationAbsent => 10
  | .limiterHeavy => 11
  | .outputClipped => 12

/-- The set that holds one source. -/
def Source.bit (x : Source) : SourceSet := BitVec.twoPow 13 x.num

/-- The set that holds one source if `b`. -/
def Source.bitIf (x : Source) (b : Bool) : SourceSet := if b then x.bit else 0

/-- The six condition sources (R190). -/
def conditionSources : SourceSet :=
  Source.clockLost.bit ||| Source.deviationWarn.bit ||| Source.deviationFault.bit |||
  Source.cueBacklog.bit ||| Source.stationAbsent.bit ||| Source.limiterHeavy.bit

/-- Some programme is in WARN or FAULT (R98). -/
def State.anyWarn (s : State) : Bool := allProgs.any fun p => (s.prog p).deviation ≠ .normal

/-- Some programme is in FAULT (R98). -/
def State.anyFault (s : State) : Bool := allProgs.any fun p => (s.prog p).deviation = .fault

/-- Some port is ABSENT (R169). -/
def State.anyAbsent (s : State) : Bool := allPorts.any fun p => (s.port p).isAbsent

/-- The limiter reduction lies above 6.00 dB in a mode that counts (R116). -/
def Programme.heavy (P : Programme) : Bool := P.mode ≠ .off && 600 * 48 < P.out.reduction

/-- Some programme in MEASURE or ACTIVE has a D above 600 (R116). R116 has the condition keep its value through a clock loss and yet
evaluates it at a change of mode and at a programme reset: those that come while the clock is LOST change it here too, on the D as it
stands (DESIGN CHOICE, log entry 27). -/
def State.anyHeavy (s : State) : Bool := allProgs.any fun p => (s.prog p).heavy

/-- The present value of every condition (R190, R199). -/
def State.conditions (s : State) : SourceSet :=
  Source.clockLost.bitIf s.clockLost ||| Source.deviationWarn.bitIf s.anyWarn |||
  Source.deviationFault.bitIf s.anyFault ||| Source.cueBacklog.bitIf (4 ≤ s.cueLog.length) |||
  Source.stationAbsent.bitIf s.anyAbsent ||| Source.limiterHeavy.bitIf s.anyHeavy

/-- An event fires (R190, R192): the bit sets in every station that has the source in its mask. -/
def State.fire (s : State) (x : Source) : State :=
  s.mapNotices fun _ n => { n with pending := n.pending ||| (n.mask &&& x.bit) }

/-- An event fires if `b`. -/
def State.fireIf (s : State) (b : Bool) (x : Source) : State := if b then s.fire x else s

/-- One station's pending set after the conditions went from `was` to `now`: an enabled LEVEL condition has the
condition's value (R193), and an enabled EDGE condition sets its bit when it goes from false to true (R192). -/
def Notice.follow (n : Notice) (was now : SourceSet) : Notice :=
  let level := n.modes &&& n.mask
  { n with pending := (n.pending &&& ~~~level) ||| (now &&& level) ||| (now &&& ~~~was &&& n.mask &&& ~~~n.modes) }

/-- The notice unit takes the changes of the conditions between `before` and `s` (R190). -/
def State.followFrom (s before : State) : State :=
  s.mapNotices fun _ n => n.follow before.conditions s.conditions

end Sys2Proof.Machine
end

