-- ==== Sys2Proof/Machine/Gains.lean ====
section
/-! DEFINITION. The gain controller: link groups, the joining value, the clamp of a slot change, and the gain law
(chapter 5). -/

namespace Sys2Proof.Machine

/-! ### Groups -/

/-- Programmes `p` and `q` are in one link group: every flag between them is set (R86). -/
def State.sameGroup (s : State) (p q : Prog) : Bool :=
  (List.range 7).all fun k => !(min p.val q.val ≤ k && k < max p.val q.val) || s.link k

/-- The ACTIVE members of the group of `p`, in order of number (R86). -/
def State.activeGroup (s : State) (p : Prog) : List Prog :=
  allProgs.filter fun q => s.sameGroup p q && (s.prog q).mode = .active

/-- The head of the group of `p`: its lowest-numbered ACTIVE member (R87). -/
def State.head (s : State) (p : Prog) : Option Prog := (s.activeGroup p).head?

/-- The lower end of the intersection of the group of `p`: the highest gain_min among its ACTIVE members' in-service
slots (R86). -/
def State.groupMin (s : State) (p : Prog) : Int :=
  (s.activeGroup p).foldl (fun lo q => max lo (s.prog q).profile.gainMin) (-2400)

/-- The upper end of the intersection: the lowest gain_max (R86). -/
def State.groupMax (s : State) (p : Prog) : Int :=
  (s.activeGroup p).foldl (fun hi q => min hi (s.prog q).profile.gainMax) 1200

/-- A gain limited into the group's intersection at both ends. -/
def State.intoGroup (s : State) (p : Prog) (g : Int) : Int := limit (s.groupMin p) (s.groupMax p) g

/-- Every ACTIVE member of the group of `p` takes `g` as its Gcur (R89, R91, R94). -/
def State.moveGroup (s : State) (p : Prog) (g : Int) : State :=
  s.mapProgs fun q P => if q ∈ s.activeGroup p then P.moveGain g else P

/-- The joining value of the group of `p`, absent in a group with no ACTIVE member (R89). -/
def State.joiningValue (s : State) (p : Prog) : Option Int :=
  ((s.activeGroup p).map fun q => (s.prog q).gcur).min?.map (s.intoGroup p)

/-- The ACTIVE members of the group of `p` take the joining value (R89). -/
def State.joinGroup (s : State) (p : Prog) : State :=
  match s.joiningValue p with
  | some v => s.moveGroup p v
  | none => s

/-- The gain clamp of a change of bounds in force (R94, R95). -/
def State.clampGain (s : State) (p : Prog) : State :=
  let P := s.prog p
  match P.mode with
  | .active => s.moveGroup p (s.intoGroup p P.gcur)
  | .measure => s
  | .off => s.onProg p (Programme.moveGain (limit P.profile.gainMin P.profile.gainMax P.gcur))

/-- An actual change of the in-service index (R140): the index names the other slot, SLOT_SWITCHED fires, and the gain
clamp is applied. -/
def State.switchSlot (s : State) (p : Prog) : State :=
  ((s.onProg p fun P => { P with inService := otherSlot P.inService }).fire .slotSwitched).clampGain p

/-! ### The gain law -/

/-- The steering reading R (R79). -/
def Programme.steeringReading (P : Programme) : Option Int :=
  match P.profile.steering with
  | .short => P.readingS
  | .integrated => P.readingI.orElse fun _ => P.readingS

/-- The steering reading of a non-hold visit; `none` at a hold visit (R80). -/
def Programme.nonHold (P : Programme) : Option Int :=
  match P.steeringReading, P.readingM with
  | some r, some m => if m < P.profile.holdThreshold then none else some r
  | _, _ => none

/-- The desired gain of a steering reading `r` (R81). -/
def Programme.desiredGain (P : Programme) (r : Int) : Int :=
  limit P.profile.gainMin P.profile.gainMax (P.profile.target - r + P.trim)

/-- The gain after one step from `g` toward `t` under the deadband and rates of `f` (R83). -/
def stepToward (f : Profile) (g t : Int) : Int :=
  if f.deadband < t - g then g + min (t - g) f.upRate
  else if t - g < -f.deadband then g - min (g - t) f.downRate
  else g

/-- The group target: the lowest Gd present among the ACTIVE members, limited into the intersection (R91). -/
def State.groupTarget (s : State) (p : Prog) : Option Int :=
  ((s.activeGroup p).filterMap fun q => (s.prog q).gd).min?.map (s.intoGroup p)

/-- The step of a head's non-hold visit (R91). For the only ACTIVE member of a group the target is its own Gd, which lies
in its own bounds, and the step is that of R83. -/
def State.stepGroup (s : State) (p : Prog) : State :=
  match s.groupTarget p with
  | some t => s.moveGroup p (stepToward (s.prog p).profile (s.prog p).gcur t)
  | none => s

/-- The deviation of a short-term reading `x`: Gcur counts as 0 outside ACTIVE (R96). -/
def Programme.deviationOf (P : Programme) (x : Int) : Int :=
  P.profile.target - (x + if P.mode = .active then P.gcur else 0)

/-- The deviation state and fault counter after a deviation of this size (R97). -/
def Programme.updateDeviation (size : Int) (P : Programme) : Programme :=
  if size ≤ P.profile.warnDev then { P with deviation := .normal, faultCount := 0 }
  else if size ≤ P.profile.faultDev then { P with deviation := .warn, faultCount := 0 }
  else
    let n := satSucc 255 P.faultCount
    { P with deviation := if P.profile.faultVisits ≤ n then .fault else .warn, faultCount := n }

/-- The settle state after a deviation of this size (R99). -/
def Programme.updateSettle (size : Int) (P : Programme) : Programme :=
  if size ≤ P.profile.settleTol then
    let n := satSucc 255 P.settleCount
    { P with settleCount := n, settled := decide (P.profile.settleCount + 1 ≤ n) }
  else P.unsettle

/-- The deviation and settle updates of one programme (R96, R97, R99); nothing where S is absent. -/
def Programme.supervise (P : Programme) : Programme :=
  match P.readingS with
  | none => P
  | some x =>
    let size : Int := (P.deviationOf x).natAbs
    let P := P.updateDeviation size
    if P.mode = .active then P.updateSettle size else P

/-- The settled flag of `p` differs between two states: SETTLED_CHANGE fires (R99, R100). -/
def State.fireSettled (s before : State) (p : Prog) : State :=
  s.fireIf ((s.prog p).settled != (before.prog p).settled) .settledChange

/-- One run of the gain law for `p` (R78): at a non-hold visit Gd is stored, a head steps its group, and the deviation
and settle states are updated. -/
def State.gainLaw (s : State) (p : Prog) : State :=
  match (s.prog p).nonHold with
  | none => s
  | some r =>
    let s1 := s.onProg p fun P => { P with gd := some (P.desiredGain r) }
    let s2 := if s1.head p = some p then s1.stepGroup p else s1
    (s2.onProg p Programme.supervise).fireSettled s p

end Sys2Proof.Machine
end

