-- ==== Sys2Proof/Machine/FrontEnds.lean ====
section
/-! DEFINITION. The front end: weighting, accumulation, completion, the schedule comparator and admission to the
sub-block queue (chapter 2, section 7.7). -/

namespace Sys2Proof.Machine

/-- Full scale in the filter's units of `2^-31`. -/
def weightUnit : Int := 2 ^ 31

/-- One stage takes an input: its exact output is rounded to the nearest unit, halves away from zero, and limited to
-4.0..+4.0 (R23). The new state's `y1` is that output (R24). -/
def StageState.push (c : Biquad) (st : StageState) (x : Int) : StageState :=
  let exact : Rat := c.b0 * x + c.b1 * st.x1 + c.b2 * st.x2 - c.a1 * st.y1 - c.a2 * st.y2
  { x1 := x, x2 := st.x1, y1 := limit (-4 * weightUnit) (4 * weightUnit) (roundAway exact), y2 := st.y1 }

/-- A channel value passes through both stages in cascade (R23). -/
def ChannelFilter.push (f : ChannelFilter) (x : Int) : ChannelFilter :=
  let shelf := f.shelf.push Config.shelf x
  { shelf := shelf, highPass := f.highPass.push Config.highPass shelf.y1 }

/-- The weighted value a channel last produced. -/
def ChannelFilter.weighted (f : ChannelFilter) : Int := f.highPass.y1

/-- The frames of a sub-block. -/
def subBlockFrames : Nat := 4800

/-- The front end acts on a frame (R22). A sample over `2^23` is `256` times the sample in units of `2^-31`. -/
def FrontEnd.addFrame (f : FrontEnd) (x : Pair) : FrontEnd :=
  let l := f.filterL.push (256 * x.l)
  let r := f.filterR.push (256 * x.r)
  { f with
    filterL := l
    filterR := r
    sumL := f.sumL + l.weighted.natAbs ^ 2
    sumR := f.sumR + r.weighted.natAbs ^ 2
    frameCount := f.frameCount + 1 }

/-- The frame count has reached 4800 and the completion of R29 is due. -/
def FrontEnd.due (f : FrontEnd) : Bool := subBlockFrames ≤ f.frameCount

/-- The energy of a sub-block (R26): the nearest integer to `2^30` times the sum of the mean squares, halves toward +∞,
at most `2^31 - 1`. The sums are in units of `2^-62`, so the exact value is their total over `4800 * 2^32`. -/
def FrontEnd.energy (f : FrontEnd) : Nat :=
  let unit := subBlockFrames * 2 ^ 32
  min maxEnergy ((2 * (f.sumL + f.sumR) + unit) / (2 * unit))

/-- The schedule comparator is consulted with the new counter value `c` (R135). -/
def State.consultSchedule (s : State) (p : Prog) (c : Count32) : State :=
  let k := (s.prog p).schedule
  if !k.enabled then s
  else if c = k.compareA then
    (s.onProg p fun P => { P with schedule := { k with compareB := k.compareB + k.increment } }).switchSlot p
  else if c = k.compareB then
    (s.onProg p fun P => { P with schedule := { k with compareA := k.compareA + k.increment } }).switchSlot p
  else s

/-- A completed record is discarded for pause (R17), appended to the queue, or lost to a full one (R33, R34). -/
def State.enqueue (s : State) (p : Prog) (x : SubBlock) : State :=
  let P := s.prog p
  if P.paused then s
  else if P.queue.length < 4 then s.onProg p fun P => { P with queue := P.queue ++ [x] }
  else (s.onProg p fun P => { P with lost := satSucc 65535 P.lost }).fire .subblockLost

/-- The completion of R29 for programme `p`, if it is due. -/
def State.complete (s : State) (p : Prog) : State :=
  let f := (s.prog p).front
  if f.due then
    let c := f.counter + 1
    let s1 := s.onProg p fun P => { P with front := { P.front.discard with counter := c } }
    (s1.consultSchedule p c).enqueue p { energy := f.energy, counter := c }
  else s

end Sys2Proof.Machine
end

