-- ==== Sys2Proof/Machine/Windows.lean ====
section
/-! DEFINITION. The window store, the gating histogram, the integrated reading and the visit (chapters 3 and 4). -/

namespace Sys2Proof.Machine

/-- An energy is pushed into a ring of `cap` places (R49, R50). -/
def Ring.push (cap : Nat) (r : Ring) (e : Nat) : Ring :=
  if r.cells.length < cap then { cells := r.cells ++ [e], sum := r.sum + e }
  else { cells := r.cells.tail ++ [e], sum := r.sum - r.cells.headD 0 + e }

/-- The mean of a full ring, rounded down; absent while the ring holds fewer than `cap` (R49, R51). -/
def Ring.mean (cap : Nat) (r : Ring) : Option Nat := if r.cells.length < cap then none else some (r.sum / cap)

/-- The places of the momentary ring. -/
def momentaryCap : Nat := 4

/-- The places of the short-term ring. -/
def shortTermCap : Nat := 30

/-- The largest bin count (R58). -/
def maxBin : Nat := 65535

/-- The lowest level that takes a bin, the absolute gate (R58). -/
def gateLevel : Int := -7000

/-- The bin that takes a level at or above the absolute gate (R59). -/
def binOf (lm : Int) : Fin 292 := ⟨min ((lm - gateLevel) / 25).toNat 291, by omega⟩

/-- Every bin count halved and rounded down (R61). -/
def halveBins (b : Vector Nat 292) : Vector Nat 292 := ⟨(b.toList.map (· / 2)).toArray, by simp⟩

/-- A block of level `lm` is entered (R60), with the halving of R61 where its bin is full. -/
def Histogram.enter (h : Histogram) (lm : Int) : Histogram :=
  if lm < gateLevel then { h with below := satSucc (2 ^ 32 - 1) h.below }
  else
    let i := binOf lm
    let bins := if maxBin ≤ h.bins[i] then halveBins h.bins else h.bins
    { h with bins := bins.set i (bins[i] + 1) }

/-- N1, the sum of all bin counts (R58). -/
def Histogram.n1 (h : Histogram) : Nat := h.bins.toList.sum

/-- The sum of count times representative energy over a run of bins that starts at bin `i` (R64, R65). -/
def weightedSum : Nat → List Nat → Nat
  | _, [] => 0
  | i, c :: cs => (if c = 0 then 0 else c * representative i) + weightedSum (i + 1) cs

/-- The lowest included bin of the second pass for a relative gate `lrel` (R65): `(lrel + 7000)/25` rounded up, or 0. -/
def lowestBin (lrel : Int) : Nat := (-(-(lrel - gateLevel) / 25)).toNat

/-- The integrated reading of the bin counts by the two passes of R64 and R65. -/
def Histogram.integrated (h : Histogram) : Option Int :=
  let bins := h.bins.toList
  let n1 := bins.sum
  if n1 = 0 then none
  else
    let mean1 := weightedSum 0 bins / n1
    let g := lowestBin (level mean1 - 1000)
    let upper := bins.drop g
    some (level (weightedSum g upper / upper.sum))

/-- A gating block of energy `em` goes into the histogram, and I is recomputed if it took a bin (R60, R67). -/
def Programme.enterBlock (em : Nat) (P : Programme) : Programme :=
  let lm := level em
  let h := P.histogram.enter lm
  { P with histogram := h, readingI := if lm < gateLevel then P.readingI else h.integrated }

/-- The energy of a consumed record passes through both rings, the histogram and the readings (R48, steps 2 to 4). -/
def Programme.pushEnergy (e : Nat) (P : Programme) : Programme :=
  let m := P.momentary.push momentaryCap e
  let t := P.shortTerm.push shortTermCap e
  let P := { P with momentary := m, shortTerm := t }
  let P := match m.mean momentaryCap with
    | some em => P.enterBlock em
    | none => P
  { P with readingM := (m.mean momentaryCap).map level, readingS := (t.mean shortTermCap).map level }

/-- One record is consumed from the head of the queue (R48). -/
def Programme.consume (P : Programme) : Programme :=
  match P.queue with
  | [] => P
  | x :: rest => { P with queue := rest }.pushEnergy x.energy

/-- The records of one visit: two if the queue holds two or more, otherwise one (R48). -/
def Programme.consumeVisit (P : Programme) : Programme := P.consume.consume

/-- A visit for a scan-table entry: empty in the cases of R47, otherwise up to two records and one run of the gain law
(R48). -/
def State.visit (s : State) : ScanEntry → State
  | none => s
  | some p =>
    let P := s.prog p
    if P.mode = .off || P.queue.isEmpty then s
    else (s.onProg p Programme.consumeVisit).gainLaw p

/-- The divider has expired (R39). -/
def State.tickDue (s : State) : Bool := !s.clockLost && s.scan.count = 0

/-- The scan tick of R39 and R46, if it is due: the count reloads, the next-entry index advances, and the entry it named
is visited. -/
def State.tick (s : State) : State :=
  if s.tickDue then
    let e := (s.scan.table[s.scan.next]?).join
    let next := if s.scan.next + 1 < s.scan.table.length then s.scan.next + 1 else 0
    ({ s with scan := { s.scan with count := s.scan.reload, next := next } }).visit e
  else s

end Sys2Proof.Machine
end

