-- ==== Sys2Proof/Machine/OutputStages.lean ====
section
/-! DEFINITION. The output stage's frame step, the ramp and the frame of the audio port (chapter 6, R1 to R3). -/

namespace Sys2Proof.Machine

/-- The two samples of a pair rewritten by `f`. -/
def Pair.map (f : Int → Int) (x : Pair) : Pair := { l := f x.l, r := f x.r }

/-- The larger of the magnitudes of a pair's samples (R109). -/
def Pair.magnitude (x : Pair) : Nat := max x.l.natAbs x.r.natAbs

/-- A pair times a factor scaled by `2^22`, divided and rounded toward zero (R107, R111). -/
def Pair.scale (f : Nat) (x : Pair) : Pair := x.map fun a => (a * f).tdiv (2 ^ 22)

/-- Each sample held within `-c..c` (R112). -/
def Pair.clampTo (c : Nat) (x : Pair) : Pair := x.map (limit (-c) c)

/-- The largest reduction that a pair of the line needs under the ceiling value `c` (R109). -/
def qmax (c : Nat) (line : List Pair) : Nat := line.foldl (fun q x => max q (reductionFor c x.magnitude)) 0

/-- The new limiter reduction, in steps of 1/48 (R110). -/
def OutputStage.newReduction (o : OutputStage) (c : Nat) (release : Int) : Nat :=
  max (48 * qmax c o.line) (o.reduction - release.toNat)

/-- The applied factor of a ramp after `k` of its 480 frames (R105). -/
def Ramp.factorAt (r : Ramp) (k : Int) : Nat :=
  ((r.start : Int) + (((r.fin : Int) - r.start) * k).tdiv 480).toNat

/-- The ramp in progress advances by one frame (R105). -/
def OutputStage.advanceRamp (o : OutputStage) : OutputStage :=
  match o.ramp with
  | none => o
  | some r =>
    let left := r.left - 1
    { o with applied := r.factorAt (480 - left), ramp := some { r with left := left } }

/-- A ramp whose frames left have reached 0 (R105). -/
def OutputStage.rampDone (o : OutputStage) : Bool :=
  match o.ramp with
  | some r => r.left = 0
  | none => false

/-- The end of a ramp whose frames left have reached 0: the applied factor is the end factor and no ramp is in progress
(R105). -/
def OutputStage.endRamp (o : OutputStage) : OutputStage := if o.rampDone then o.completeRamp else o

/-- What a frame step leaves: the output stage, the emitted pair, and whether the safety clamp touched it. -/
structure FrameStep where
  stage : OutputStage
  emitted : Pair
  clipped : Bool
  deriving DecidableEq, Repr

/-- The frame step of R107 under the in-service slot `f`, for the new input pair `x`. -/
def OutputStage.frameStep (o : OutputStage) (f : Profile) (x : Pair) : FrameStep :=
  let c := ceilingValue f.ceiling
  let d := o.newReduction c f.release
  let limited := (o.line.headD .zero).scale (reducingFactor d)
  let pipeline := o.pipeline ++ [limited]
  let head := pipeline.headD .zero
  let emitted := head.clampTo c
  let clipped := emitted ≠ head
  let o := o.advanceRamp
  { stage := { o with
      line := o.line.tail ++ [x.scale o.applied]
      pipeline := pipeline.tail
      reduction := d
      peak := max o.peak d
      clips := if clipped then satSucc 65535 o.clips else o.clips }
    emitted := emitted
    clipped := clipped }

/-- The bypass branch takes an input pair and lets go the one of fifty frames before (R3). -/
def OutputStage.pushBypass (o : OutputStage) (x : Pair) : OutputStage := { o with bypass := o.bypass.tail ++ [x] }

/-- The sample of a TDM slot: its upper 24 bits in two's complement (R1). -/
def sampleOf (w : TdmWord) : Int := (w.extractLsb' 8 24).toInt

/-- The TDM slot that carries a sample: the upper 24 bits, and zeros below (R2). -/
def slotOf (x : Int) : TdmWord := BitVec.ofInt 24 x ++ (0 : BitVec 8)

/-- The input pair of programme `p`: slots `2p` and `2p+1` (R1). -/
def inputPair (slots : Vector TdmWord 16) (p : Prog) : Pair :=
  { l := sampleOf slots[2 * p.val], r := sampleOf slots[2 * p.val + 1] }

/-- What a programme sends for a frame and what the frame leaves of it (R3, R9, R22, R107). -/
def Programme.frame (P : Programme) (x : Pair) : Programme × Pair × Bool :=
  if P.mode = .off then ({ P with out := P.out.pushBypass x }, P.out.bypass.headD .zero, false)
  else
    let step := P.out.frameStep P.profile x
    ({ P with front := P.front.addFrame x, out := step.stage.pushBypass x }, step.emitted, step.clipped)

/-- The output frame: slots `2p` and `2p+1` carry the pair of programme `p` (R2). -/
def outputSlots (sent : Prog → Pair) : Vector TdmWord 16 :=
  Vector.ofFn fun i =>
    let x := sent ⟨i.val / 2, by omega⟩
    slotOf (if i.val % 2 = 0 then x.l else x.r)

/-- What a frame leaves due is carried out: the ramps that have run, the sub-blocks that are full, in order of programme,
and then the scan tick (log entry 5). -/
def State.carryOut (s : State) : State :=
  let s := s.mapProgs fun _ P => { P with out := P.out.endRamp }
  (allProgs.foldl State.complete s).tick

/-- A frame is taken while the clock is present and a frame that opened with a sync is waiting for its slot 15 (R1). -/
def State.takesFrame (s : State) : Bool := !s.clockLost && s.frameOpen

/-- The frame of R1 is taken, with nothing left due before it: every programme takes its input pair, the output port sends
its frame, and the divider counts it (R39). -/
def State.takeFrame (s : State) (slots : Vector TdmWord 16) : State :=
  let result := fun p => (s.prog p).frame (inputPair slots p)
  let s1 := s.mapProgs fun p _ => (result p).1
  let s2 := { s1 with
    frameOpen := false
    tdmOut := some (outputSlots fun p => (result p).2.1)
    scan := { s.scan with count := s.scan.count - 1 } }
  s2.fireIf (allProgs.any fun p => (result p).2.2) .outputClipped

end Sys2Proof.Machine
end

