-- ==== Sys2Proof/Machine/CueUnit.lean ====
section
/-! DEFINITION. The cue unit: captures, actions and the qualification of samples (chapter 8). -/

namespace Sys2Proof.Machine

/-- The places of the cue log (R150). -/
def cueLogCap : Nat := 8

/-- The frame offset of a capture on programme `p`: absent while the monitor is LOST (R151). -/
def State.captureOffset (s : State) (p : Prog) : Option Nat :=
  if s.clockLost then none else some (s.prog p).front.frameCount

/-- An entry is offered to the log (R152). -/
def State.logCue (s : State) (e : CueEntry) : State :=
  if s.cueLog.length < cueLogCap then
    { s with cueLog := s.cueLog ++ [{ e with gap := s.gapMark }], gapMark := false }
  else ({ s with gapMark := true }).fire .cueOverflow

/-- A capture of line `l` with the values of its programme's front end (R151). A sub-block that the last frame filled is
completed first: a frame and the completion it makes are one event to a capture (R151's first row). -/
def State.capture (s : State) (l : CueLine) (kind : CueKind) (action : CueAction) : State :=
  let p := (s.cue l).config.programme
  let s := s.complete p
  s.logCue
    { line := l, kind := kind, programme := p, counter := (s.prog p).front.counter, offset := s.captureOffset p,
      action := action, gap := false }

/-- The action of a line is applied to its programme (R147). -/
def State.applyAction (s : State) (p : Prog) : CueAction → State
  | .nothing => s
  | .restart => s.onProg p Programme.restartSegment
  | .swap => s.switchSlot p
  | .pause => s.onProg p fun P => { P with cuePause := P.cuePause + 1 }

/-- The qualified assertion of line `l` (R147). -/
def State.assertCue (s : State) (l : CueLine) : State :=
  let f := (s.cue l).config
  let s := s.onCue l fun c => { c with asserted := true, run := 0 }
  (s.capture l .asserted f.action).applyAction f.programme f.action

/-- The cue-pause count of `p` decreases by one (R144, R148). -/
def State.unpauseCue (s : State) (p : Prog) : State := s.onProg p fun P => { P with cuePause := P.cuePause - 1 }

/-- The qualified release of line `l` (R148). A sub-block that the last frame filled is completed while its programme is still
paused (R17, log entry 5). -/
def State.releaseCue (s : State) (l : CueLine) : State :=
  let f := (s.cue l).config
  let s := (s.complete f.programme).onCue l fun c => { c with asserted := false, run := 0 }
  let s := if f.action = .pause then s.unpauseCue f.programme else s
  if f.captureRelease then s.capture l .released (if f.action = .pause then .pause else .nothing) else s

/-- The width measurement has run for the minimum width at the next sample of the run (R145): that sample is the
`8w + 1`-th of the run. -/
def CueState.wideEnough (c : CueState) : Bool := 8 * c.config.width ≤ c.run

/-- A sample finds the line at the opposite level (R145). -/
def CueState.opposite (c : CueState) (pin : Bool) : Bool :=
  (pin == decide (c.config.polarity = .activeHigh)) != c.asserted

/-- The qualified transition of line `l`: an assertion while its flag is clear, a release while it is set. -/
def State.qualifyCue (s : State) (l : CueLine) : State :=
  if (s.cue l).asserted then s.releaseCue l else s.assertCue l

/-- One sample of line `l` finds its pin at `pin` (R145, R146). -/
def State.sampleCue (s : State) (l : CueLine) (pin : Bool) : State :=
  let c := s.cue l
  if !c.config.enabled then s
  else if !c.opposite pin then s.onCue l fun c => { c with run := 0 }
  else if c.wideEnough then s.qualifyCue l
  else s.onCue l fun c => { c with run := c.run + 1 }

/-- One sampling instant of the four lines, in order of number (log entry 6). -/
def State.sampleCues (s : State) (pins : BitVec 4) : State :=
  allLines.foldl (fun s l => s.sampleCue l (pins.getLsbD l.val)) s

/-- The line's old state is closed and the line starts under `f` (R144). -/
def State.configureCue (s : State) (l : CueLine) (f : CueConfig) : State :=
  let c := s.cue l
  let s := if c.asserted && c.config.action = .pause then s.unpauseCue c.config.programme else s
  s.onCue l fun _ => { config := f, asserted := false, run := 0 }

end Sys2Proof.Machine
end

