-- ==== Sys2Proof/Machine/AudioPort.lean ====
section
/-! DEFINITION. The audio port and its clock monitor (R1 to R7). -/

namespace Sys2Proof.Machine

/-- FRAME_SYNC (R4, R6): it restarts the loss timer and opens a frame while PRESENT, and starts or continues the return
measurement while LOST. -/
def execFrameSync (s : State) : Host.Outcome State Fault Refusal :=
  .next (if s.held then s
    else match s.monitor with
      | .present _ => { s with monitor := .present lossCycles, frameOpen := true }
      | .lost none => { s with monitor := .lost (some { run := 0, sinceSync := 0 }) }
      | .lost (some m) => { s with monitor := .lost (some { m with sinceSync := 0 }) })

/-- INPUT_FRAME (R1, R2, R22, R39, R107). What the frame before left due comes first (log entry 5). -/
def execInputFrame (slots : Vector TdmWord 16) (s : State) : Host.Outcome State Fault Refusal :=
  .next (if !s.held && s.takesFrame then (s.carryOut.takeFrame slots).followFrom s else s)

/-- The audio side stops (R5): every partial sub-block is discarded and the output port falls silent. -/
def State.loseClock (s : State) : State :=
  { s.mapProgs fun _ P => { P with front := P.front.discard } with
    monitor := .lost none, frameOpen := false, tdmOut := none }

/-- CLOCK_LOSS_DECLARATION (R4, R5). Frames that were complete before it have been processed: what they left due comes first. -/
def execClockLossDeclaration (s : State) : Host.Outcome State Fault Refusal :=
  .next (if !s.held && !s.clockLost then s.carryOut.loseClock.followFrom s else s)

/-- RETURN_MEASUREMENT_STOP (R6). -/
def execReturnMeasurementStop (s : State) : Host.Outcome State Fault Refusal :=
  .next (match s.held, s.monitor with
    | false, .lost (some _) => { s with monitor := .lost none }
    | _, _ => s)

/-- A programme at the declaration of return (R7). -/
def Programme.returnClock (P : Programme) : Programme :=
  { P with
    front := P.front.discard.clearFilter
    out := { P.out.fillProcessed.fillBypass.completeRamp with reduction := 0 } }

/-- The audio side is put into a known state (R6, R7). -/
def State.returnClock (s : State) : State :=
  { s.mapProgs fun _ P => P.returnClock with
    monitor := .present lossCycles, scan := { s.scan with count := s.scan.reload } }

/-- CLOCK_RETURN_DECLARATION (R6, R7): a running return measurement has lasted. -/
def execClockReturnDeclaration (s : State) : Host.Outcome State Fault Refusal :=
  .next (match s.held, s.monitor with
    | false, .lost (some _) => s.returnClock.followFrom s
    | _, _ => s)

end Sys2Proof.Machine
end

