-- ==== Sys2Proof/Machine/Clock.lean ====
section
/-! DEFINITION. The block with no command waiting: what a frame left due is queued, and otherwise one cycle of the control clock
passes (log entry 3). -/

namespace Sys2Proof.Machine

/-- The events that a frame left due, in the order of `State.carryOut`. -/
def State.dueEvents (s : State) : List Instr :=
  (allProgs.filter fun p => (s.prog p).out.rampDone).map .rampEnd ++
  (allProgs.filter fun p => (s.prog p).front.due).map .subblockCompletion ++
  if s.tickDue then [.scanTick] else []

/-- The monitor after a cycle (R4, R6). -/
def Monitor.cycle : Monitor → Monitor
  | .present t => .present (t - 1)
  | .lost none => .lost none
  | .lost (some m) => .lost (some { run := m.run + 1, sinceSync := m.sinceSync + 1 })

/-- The declarations that the monitor's timers call for (R4, R6). A gap of 1 ms stops a measurement before it can end. -/
def Monitor.expiries : Monitor → List Instr
  | .present t => if t = 0 then [.clockLossDeclaration] else []
  | .lost none => []
  | .lost (some m) =>
    if lossCycles ≤ m.sinceSync then [.returnMeasurementStop]
    else if returnCycles ≤ m.run then [.clockReturnDeclaration] else []

/-- A port after a cycle: the silence timer of a PRESENT port and a running inter-byte timer (R165, R175). With an empty queue no
expiry waits, so none is overtaken (log entry 25). -/
def PortState.cycle (P : PortState) : PortState :=
  { P with
    receive := match P.receive with
      | .receiving bytes t => .receiving bytes (t - 1)
      | .idle => .idle
    presence := match P.presence with
      | .present t => .present (t - 1)
      | .absent => .absent
    overtaken := false }

/-- The expiries of a port's timers. -/
def PortState.expiries (P : PortState) (p : Port) : List Instr :=
  (match P.receive with
    | .receiving _ 0 => [.interByteTimeout p]
    | _ => []) ++
  match P.presence with
  | .present 0 => [.stationAbsence p]
  | _ => []

/-- One cycle of the control clock passes and the timers that have run out queue their events. -/
def State.cycle (s : State) : State :=
  let monitor := s.monitor.cycle
  let port := fun p => (s.port p).cycle
  { s with
    monitor := monitor
    ports := Vector.ofFn port
    pending := s.pending ++ monitor.expiries ++ allPorts.flatMap fun p => (port p).expiries p }

/-- The block with an empty queue. In a reset hold no timer runs (R200). -/
def State.idle (s : State) : State :=
  if s.held then s
  else match s.dueEvents with
    | [] => s.cycle
    | due => { s with pending := due }

end Sys2Proof.Machine
end

