-- ==== Sys2Proof/Decode.lean ====
section
/-! DEFINITION. Words and message bytes: the table's bit patterns (none of its rows has any), the CRC and the
little-endian fields of messages (R172 to R174), and the items of WRITE_PROFILE (R184). -/

namespace Sys2Proof

/-- The command that a word spells by the bits of spec/opcode_table.json: no row gives bits, so none. -/
def decodeTableWord (_nbits _w : Nat) : Option Instr := none

/-- SYNC, the fixed first byte of every message (R172). -/
def syncByte : Byte := 0x5A

/-- One of the eight shifts of R174: the register moves left by one place, and takes 0x07 by XOR if the bit
shifted out was 1. -/
def crcShift (r : Byte) : Byte := if r.msb then (r <<< 1) ^^^ 0x07 else r <<< 1

/-- The register after a byte (R174). -/
def crcByte (r b : Byte) : Byte :=
  crcShift (crcShift (crcShift (crcShift (crcShift (crcShift (crcShift (crcShift (r ^^^ b))))))))

/-- The CHECK of the covered bytes, from LENGTH to the last byte of PAYLOAD (R174). -/
def crc (bytes : List Byte) : Byte := bytes.foldl crcByte 0

/-- A whole message around its content, CODE to the last byte of PAYLOAD (R172, R173). -/
def frameMessage (content : List Byte) : List Byte :=
  let covered := BitVec.ofNat 8 content.length :: content
  syncByte :: covered ++ [crc covered]

/-- A 16-bit word, least significant byte first (R172). -/
def word16 (lo hi : Byte) : BitVec 16 := hi ++ lo

/-- A 32-bit word, least significant byte first (R172). -/
def word32 (b0 b1 b2 b3 : Byte) : BitVec 32 := b3 ++ b2 ++ b1 ++ b0

/-- The two bytes of a 16-bit word (R172). -/
def bytes16 (w : BitVec 16) : List Byte := [w.setWidth 8, (w >>> 8).setWidth 8]

/-- The four bytes of a 32-bit word (R172). -/
def bytes32 (w : BitVec 32) : List Byte :=
  [w.setWidth 8, (w >>> 8).setWidth 8, (w >>> 16).setWidth 8, (w >>> 24).setWidth 8]

/-- A signed quantity as 16-bit two's complement (R172). -/
def signed16 (x : Int) : List Byte := bytes16 (BitVec.ofInt 16 x)

/-- An unsigned count in two bytes (R172). -/
def count16 (n : Nat) : List Byte := bytes16 (BitVec.ofNat 16 n)

/-- An unsigned count in four bytes (R172). -/
def count32 (n : Nat) : List Byte := bytes32 (BitVec.ofNat 32 n)

/-- An unsigned count in one byte. -/
def count8 (n : Nat) : Byte := BitVec.ofNat 8 n

/-- The field identifiers of section 10.9; 8 is the steering and 15 the label. -/
def Field.id : Field → Nat
  | .target => 0
  | .ceiling => 1
  | .gainMin => 2
  | .gainMax => 3
  | .upRate => 4
  | .downRate => 5
  | .deadband => 6
  | .holdThreshold => 7
  | .warnDev => 9
  | .faultDev => 10
  | .faultVisits => 11
  | .settleTol => 12
  | .settleCount => 13
  | .release => 14

/-- The fourteen numeric fields in the order of R121. -/
def allFields : List Field :=
  [.target, .ceiling, .gainMin, .gainMax, .upRate, .downRate, .deadband, .holdThreshold,
   .warnDev, .faultDev, .faultVisits, .settleTol, .settleCount, .release]

/-- The identifier an item carries (R184). -/
def ProfileItem.id : ProfileItem → Nat
  | .number f _ => f.id
  | .steering _ => 8
  | .label _ => 15

/-- The item with a two-byte value that the identifier `n` opens, for the fourteen numeric fields and the
steering. -/
def ProfileItem.ofValue (n : Nat) (v : Int) : Option ProfileItem :=
  if n = 8 then some (.steering v) else (allFields.find? (·.id = n)).map (.number · v)

/-- The items of a WRITE_PROFILE payload after its slot byte, read from start to end; `none` where an item runs
past the end or an identifier above 15 appears (R184). `fuel` is at least the number of bytes. -/
def parseItems : Nat → List Byte → Option (List ProfileItem)
  | _, [] => some []
  | 0, _ :: _ => none
  | fuel + 1, id :: rest =>
    if id.toNat = 15 then
      match rest with
      | [] => none
      | n :: rest =>
        if n.toNat ≤ rest.length then
          (parseItems fuel (rest.drop n.toNat)).map (.label (rest.take n.toNat) :: ·)
        else none
    else
      match rest with
      | lo :: hi :: rest =>
        match ProfileItem.ofValue id.toNat (word16 lo hi).toInt with
        | some item => (parseItems fuel rest).map (item :: ·)
        | none => none
      | _ => none

/-- A character of a label: a code in 0x20..0x7E (R122). -/
def printable (b : Byte) : Bool := 0x20 ≤ b.toNat && b.toNat ≤ 0x7E

/-- An item whose value is not malformed: steering 0 or 1, and a label of at most sixteen printable characters
(R184). -/
def ProfileItem.valueOk : ProfileItem → Bool
  | .number _ _ => true
  | .steering v => v = 0 || v = 1
  | .label chars => chars.length ≤ 16 && chars.all printable

/-- The items of a WRITE_PROFILE payload, `none` if it is malformed: R184's five cases. -/
def profileItems (bytes : List Byte) : Option (List ProfileItem) :=
  match parseItems bytes.length bytes with
  | none => none
  | some items =>
    if (items.map ProfileItem.id).Nodup && items.all ProfileItem.valueOk then some items else none

/-- The value an item list gives a numeric field, if it names it. -/
def numberIn (items : List ProfileItem) (f : Field) : Option Int :=
  items.findSome? fun
    | .number g v => if g = f then some v else none
    | _ => none

/-- The value an item list gives the steering, if it names it. -/
def steeringIn (items : List ProfileItem) : Option Int :=
  items.findSome? fun
    | .steering v => some v
    | _ => none

/-- The characters an item list gives the label, if it names it. -/
def labelIn (items : List ProfileItem) : Option (List Byte) :=
  items.findSome? fun
    | .label chars => some chars
    | _ => none

/-- The entry byte of a scan table: 0..7 a programme, 0xFF IDLE (R180); `none` for any other byte. -/
def scanEntryOf (b : Byte) : Option ScanEntry :=
  if b = 0xFF then some none
  else if h : b.toNat < 8 then some (some ⟨b.toNat, h⟩) else none

/-- The entries of a LOAD_SCAN_TABLE list, `none` if one is neither a programme nor IDLE (R44). -/
def scanEntriesOf (bytes : List Byte) : Option (List ScanEntry) := bytes.mapM scanEntryOf

/-- The byte of a scan-table entry (R180). -/
def scanEntryByte : ScanEntry → Byte
  | some p => BitVec.ofNat 8 p.val
  | none => 0xFF

end Sys2Proof
end

