-- ==== Sys2Proof/WellFormed.lean ====
section
/-! DEFINITION. Which commands the outside world can send: the message-level commands are messages of R172. -/

namespace Sys2Proof

/-- The twenty-eight request codes of section 10.9. -/
def requestCodes : List Byte :=
  [0x01, 0x02, 0x03, 0x04, 0x05, 0x06, 0x10, 0x11, 0x20, 0x21, 0x22, 0x23, 0x24, 0x25, 0x26, 0x27,
   0x28, 0x29, 0x2A, 0x2B, 0x30, 0x31, 0x32, 0x33, 0x34, 0x40, 0x41, 0x42]

/-- The largest payload a request can carry: LENGTH is at most 50 and covers CODE and TARGET (R172). -/
def maxPayload : Nat := 48

/-- Why a command is no command of the outside world. -/
inductive IllFormed
  /-- A request's payload is longer than its LENGTH byte can say (R172). -/
  | payloadTooLong
  /-- An UNKNOWN_REQUEST carries one of the twenty-eight codes (R179). -/
  | codeIsKnown
  deriving DecidableEq, Repr

/-- A message's payload fits its LENGTH byte. -/
def checkPayload (payload : List Byte) : Option IllFormed :=
  if payload.length ≤ maxPayload then none else some .payloadTooLong

/-- The first check a command fails, if any. -/
def Instr.illFormed : Instr → Option IllFormed
  | .powerOn _ | .pinReset | .resetEnd | .frameSync | .inputFrame _ | .rampEnd _
  | .subblockCompletion _ | .scanTick | .clockLossDeclaration | .returnMeasurementStop
  | .clockReturnDeclaration | .cueAssertion _ | .cueRelease _ | .stationAbsence _
  | .interByteTimeout _ | .messageDiscard _ _ | .servingDiscard _ | .responseEnd _
  | .requestedReset | .cueLineSample _ | .byteReceived _ _ => none
  | .unknownRequest _ code _ payload =>
    if code ∈ requestCodes then some .codeIsKnown else checkPayload payload
  | .readProgramme _ _ payload | .readProfile _ _ payload | .readHistogram _ _ payload
  | .readCueLog _ _ payload | .readDevice _ _ payload | .readNotices _ _ payload
  | .claim _ _ payload | .release _ _ payload | .setMode _ _ payload | .writeProfile _ _ payload
  | .copyProfile _ _ payload | .setTrim _ _ payload | .setSchedule _ _ payload
  | .forceSlot _ _ payload | .setCount _ _ payload | .restartSegment _ _ payload
  | .pause _ _ payload | .resume _ _ payload | .resetProgramme _ _ payload
  | .setLink _ _ payload | .loadScanTable _ _ payload | .setScanPeriod _ _ payload
  | .configCue _ _ payload | .dropCueEntries _ _ payload | .resetDevice _ _ payload
  | .setNoticeMask _ _ payload | .setNoticeMode _ _ payload | .ackNotices _ _ payload =>
    checkPayload payload

/-- A command that the outside world can send. -/
def Instr.WellFormed (i : Instr) : Bool := i.illFormed.isNone

end Sys2Proof
end

