-- ==== Sys2Proof/Machine/Operands.lean ====
section
/-! DEFINITION. Requests as a port sees them: results, the order of checks with its operands, and the taking of a
well-formed message (chapters 9 and 10). -/

namespace Sys2Proof.Machine

/-- The eleven results of R181. -/
inductive Result
  | ok | clamped | granted | alreadyYours | heldElsewhere | notClaimed | notHolder | inService | readOnly
  | badRequest | badTarget
  deriving DecidableEq, Repr

/-- The codes of the results (R181). -/
def Result.code : Result → Byte
  | .ok => 0x00
  | .clamped => 0x01
  | .granted => 0x02
  | .alreadyYours => 0x03
  | .heldElsewhere => 0x04
  | .notClaimed => 0x10
  | .notHolder => 0x11
  | .inService => 0x12
  | .readOnly => 0x13
  | .badRequest => 0x14
  | .badTarget => 0x15

/-- What serving a request leaves: the state after its effect, the result and the response payload. -/
structure Reply where
  state : State
  result : Result
  payload : List Byte
  deriving DecidableEq, Repr

/-- How a request is served: from its port, its TARGET and PAYLOAD bytes, and the state when it is taken. -/
abbrev Serve := Port → Byte → List Byte → State → Reply

/-- A refusal: the state is left as it is and the response carries nothing more (R163, R181). -/
def refuse (s : State) (r : Result) : Reply := { state := s, result := r, payload := [] }

/-- A request carried out, answered OK with no payload. -/
def done (s : State) : Reply := { state := s, result := .ok, payload := [] }

/-- A request carried out, answered CLAMPED if `b` and OK otherwise, with this payload. -/
def doneClamped (s : State) (b : Bool) (payload : List Byte) : Reply :=
  { state := s, result := if b then .clamped else .ok, payload := payload }

/-- A read answered OK with this payload. -/
def report (s : State) (payload : List Byte) : Reply := { state := s, result := .ok, payload := payload }

/-- The byte of a station or holder, 0xFF when absent (R180). -/
def stationByte : Option Port → Byte
  | some p => count8 p.val
  | none => 0xFF

/-! ### The order of checks (R163, R179) -/

/-- Stage 1: on a READ_ONLY port the request is answered READ_ONLY (R161). -/
def needFull (port : Port) (s : State) (k : Reply) : Reply :=
  if (s.port port).access = .readOnly then refuse s .readOnly else k

/-- Stage 2, step 2: a payload of another size than `n` is answered BAD_REQUEST (R179). -/
def needSize (n : Nat) (payload : List Byte) (s : State) (k : Reply) : Reply :=
  if payload.length = n then k else refuse s .badRequest

/-- Stage 2, step 3: a byte that names one of `n` things and lies outside their range is answered BAD_TARGET (R179). -/
def needBelow (n : Nat) (b : Byte) (s : State) (k : Fin n → Reply) : Reply :=
  if h : b.toNat < n then k ⟨b.toNat, h⟩ else refuse s .badTarget

/-- Stage 2, step 4: a malformed value is answered BAD_REQUEST (R179). -/
def needValue {α : Type} (x : Option α) (s : State) (k : α → Reply) : Reply :=
  match x with
  | some a => k a
  | none => refuse s .badRequest

/-- Stage 3: the record must be held by the requesting station; the payload of NOT_CLAIMED is its holder (R162). -/
def needClaim (port : Port) (r : ClaimRecord) (s : State) (k : Reply) : Reply :=
  if s.holder r = some port then k
  else { state := s, result := .notClaimed, payload := [stationByte (s.holder r)] }

/-- Stage 4: the destination slot must not be in service on an ACTIVE programme (R124). -/
def needIdleSlot (p : Prog) (i : Slot) (s : State) (k : Reply) : Reply :=
  if (s.prog p).mode = .active ∧ (s.prog p).inService = i then refuse s .inService else k

/-- The byte `i` of a payload; the checks have established its size. -/
def byteAt (payload : List Byte) (i : Nat) : Byte := payload.getD i 0

/-- The 16-bit word at byte `i` of a payload. -/
def word16At (payload : List Byte) (i : Nat) : BitVec 16 := word16 (byteAt payload i) (byteAt payload (i + 1))

/-- The 32-bit word at byte `i` of a payload. -/
def word32At (payload : List Byte) (i : Nat) : BitVec 32 :=
  word32 (byteAt payload i) (byteAt payload (i + 1)) (byteAt payload (i + 2)) (byteAt payload (i + 3))

/-! ### The names carried as one byte (R180) -/

/-- yes/no, on/off, enable. -/
def boolOf (b : Byte) : Option Bool := if b = 0 then some false else if b = 1 then some true else none

/-- A mode. -/
def modeOf (b : Byte) : Option Mode :=
  if b = 0 then some .off else if b = 1 then some .measure else if b = 2 then some .active else none

/-- A cue polarity. -/
def polarityOf (b : Byte) : Option Polarity :=
  if b = 0 then some .activeHigh else if b = 1 then some .activeLow else none

/-- A cue action. -/
def actionOf (b : Byte) : Option CueAction :=
  if b = 0 then some .nothing else if b = 1 then some .restart else if b = 2 then some .swap
  else if b = 3 then some .pause else none

/-- The code of a mode. -/
def Mode.code : Mode → Nat
  | .off => 0
  | .measure => 1
  | .active => 2

/-- The code of a cue action. -/
def CueAction.code : CueAction → Nat
  | .nothing => 0
  | .restart => 1
  | .swap => 2
  | .pause => 3

/-- The code of a deviation state. -/
def Deviation.code : Deviation → Nat
  | .normal => 0
  | .warn => 1
  | .fault => 2

/-- The code of a reset kind. -/
def ResetKind.code : ResetKind → Nat
  | .powerOn => 0
  | .pin => 1
  | .request => 2

/-- Bits packed into a number, the first in bit 0. -/
def packBits : List Bool → Nat
  | [] => 0
  | b :: bs => b.toNat + 2 * packBits bs

/-! ### Taking a message (R165, R167, R175, R176) -/

/-- A well-formed message on `port`: the receive half is IDLE, the silence timer restarts, and an ABSENT port becomes
PRESENT (R165, R167, R175). At a timer that has run out, the expiry that waits is overtaken (R168). -/
def State.hear (s : State) (port : Port) : State :=
  (s.onPort port fun P =>
    { P with receive := .idle, presence := .present silenceCycles, overtaken := P.passed }).followFrom s

/-- The response message to a request (R173). -/
def responseTo (code target : Byte) (a : Reply) : List Byte :=
  frameMessage (code :: target :: a.result.code :: a.payload)

/-- The request is served and its response is being sent (R176). The conditions it changed reach the notice unit. -/
def State.answer (s : State) (port : Port) (code target : Byte) (a : Reply) : State :=
  (a.state.onPort port fun P => { P with serving := some (responseTo code target a) }).followFrom s

/-- The last byte of a well-formed message arrives on `port` (R176): heard in any case, and taken as a request served by
`serve` if the port is not SERVING. In a reset hold the ports take no byte (R200), and a payload beyond 48 bytes makes no
message (R172). -/
def State.takeMessage (s : State) (port : Port) (code target : Byte) (payload : List Byte) (serve : Serve) : State :=
  if s.held || maxPayload < payload.length then s
  else
    let s := s.hear port
    match (s.port port).serving with
    | some _ => s
    | none => s.answer port code target (serve port target payload s)

end Sys2Proof.Machine
end

