-- ==== Sys2Proof/Machine/ClaimRequests.lean ====
section
/-! DEFINITION. The claim table's requests and the absence of a station (R157 to R159, R166). -/

namespace Sys2Proof.Machine

/-- Claim record `r` changes its holder to `h`, and CLAIM_CHANGED fires (R157). -/
def State.changeHolder (s : State) (r : ClaimRecord) (h : Option Port) : State := (s.setHolder r h).fire .claimChanged

/-- CLAIM (R158). -/
def serveClaim : Serve := fun port target payload s =>
  needFull port s <| needSize 0 payload s <| needBelow 9 target s fun r =>
    match s.holder r with
    | none => { state := s.changeHolder r (some port), result := .granted, payload := [stationByte (some port)] }
    | some h =>
      { state := s, result := if h = port then .alreadyYours else .heldElsewhere, payload := [stationByte (some h)] }

/-- RELEASE (R159). The payload is the holder after the request (section 10.9). -/
def serveRelease : Serve := fun port target payload s =>
  needFull port s <| needSize 0 payload s <| needBelow 9 target s fun r =>
    if s.holder r = some port then
      { state := s.changeHolder r none, result := .ok, payload := [stationByte none] }
    else { state := s, result := .notHolder, payload := [stationByte (s.holder r)] }

/-- Every claim the station holds is dropped, and CLAIM_CHANGED fires if it held any (R166). A firing for each record
leaves the same pending bits as one. -/
def State.dropClaims (s : State) (port : Port) : State :=
  ({ s with claims := Vector.ofFn fun r => if s.holder r = some port then none else s.holder r }).fireIf
    (s.claims.toList.any (· = some port)) .claimChanged

/-- The silence timer of a PRESENT port expires (R166); the port of an ABSENT station has no timer running. An expiry that a message
has overtaken drops nothing (R168), and it is spent (log entry 25). Any other is taken at its sender's word, whatever the timer's
count (log entry 4). -/
def State.declareAbsent (s : State) (port : Port) : State :=
  if s.held || (s.port port).isAbsent then s
  else if (s.port port).overtaken then s.onPort port fun P => { P with overtaken := false }
  else ((s.onPort port fun P => { P with presence := .absent }).dropClaims port).followFrom s

/-- CLAIM (R158). -/
def execClaim (port : Port) (target : Byte) (payload : List Byte) (s : State) : Host.Outcome State Fault Refusal :=
  .next (s.takeMessage port 0x10 target payload serveClaim)

/-- RELEASE (R159). -/
def execRelease (port : Port) (target : Byte) (payload : List Byte) (s : State) : Host.Outcome State Fault Refusal :=
  .next (s.takeMessage port 0x11 target payload serveRelease)

/-- STATION_ABSENCE (R166). -/
def execStationAbsence (port : Port) (s : State) : Host.Outcome State Fault Refusal := .next (s.declareAbsent port)

end Sys2Proof.Machine
end

