-- ==== Sys2Proof/Machine/Cues.lean ====
section
/-! DEFINITION. The commands of the cue unit's pins: samples and qualified transitions (R145 to R148). -/

namespace Sys2Proof.Machine

/-- A sample at the opposite level qualifies a transition of this line now (R145). -/
def CueState.qualifies (c : CueState) : Bool := c.config.enabled && c.wideEnough

/-- CUE_ASSERTION (R145, R147): the sample that qualifies an assertion of line `l`. -/
def execCueAssertion (l : CueLine) (s : State) : Host.Outcome State Fault Refusal :=
  .next (if !s.held && (s.cue l).qualifies && !(s.cue l).asserted then (s.assertCue l).followFrom s else s)

/-- CUE_RELEASE (R146, R148): the sample that qualifies a release of line `l`. -/
def execCueRelease (l : CueLine) (s : State) : Host.Outcome State Fault Refusal :=
  .next (if !s.held && (s.cue l).qualifies && (s.cue l).asserted then (s.releaseCue l).followFrom s else s)

/-- CUE_LINE_SAMPLE (R145, R146): one sampling instant. In a reset hold the lines are not sampled (R200). -/
def execCueLineSample (pins : BitVec 4) (s : State) : Host.Outcome State Fault Refusal :=
  .next (if s.held then s else (s.sampleCues pins).followFrom s)

end Sys2Proof.Machine
end

