-- ==== Sys2Proof/Machine/DeviceRequests.lean ====
section
/-! DEFINITION. The requests that change the device: scan table and period, cue lines and log, and the device reset
(R40, R44, R143, R155, R187). -/

namespace Sys2Proof.Machine

/-- The payload of LOAD_SCAN_TABLE: its entries, `none` where it is malformed (R44, R185). -/
def scanTableOf : List Byte → Option (List ScanEntry)
  | [] => none
  | n :: entries => if n = 0 ∨ n.toNat ≠ entries.length then none else scanEntriesOf entries

/-- LOAD_SCAN_TABLE (R44): the first sixteen entries replace the table, and the next-entry index is 0. -/
def serveLoadScanTable : Serve := fun port _ payload s =>
  needFull port s <| needValue (scanTableOf payload) s fun entries => needClaim port deviceRecord s <|
    doneClamped { s with scan := { s.scan with table := entries.take 16, next := 0 } } (decide (16 < entries.length)) []

/-- SET_SCAN_PERIOD (R40): the value is clamped into 150..4800; the count in progress stands. A value out of range whose clamp equals the
reload in force is answered CLAMPED (DESIGN CHOICE, log entry 9). -/
def serveSetScanPeriod : Serve := fun port _ payload s =>
  needFull port s <| needSize 2 payload s <| needClaim port deviceRecord s <|
    let v := (word16At payload 0).toNat
    let x := max 150 (min v 4800)
    doneClamped { s with scan := { s.scan with reload := x } } (x != v) []

/-- CONFIG_CUE (R143, R144). The payload is enabled, programme, polarity, width in two bytes, action and capture_release. -/
def serveConfigCue : Serve := fun port target payload s =>
  needFull port s <| needSize 7 payload s <| needBelow 4 target s fun l => needBelow 8 (byteAt payload 1) s fun p =>
    needValue (boolOf (byteAt payload 0)) s fun enabled => needValue (polarityOf (byteAt payload 2)) s fun polarity =>
      needValue (actionOf (byteAt payload 5)) s fun action => needValue (boolOf (byteAt payload 6)) s fun capture =>
        needClaim port deviceRecord s <|
          let v := (word16At payload 3).toNat
          let x := min v 255
          doneClamped
            (s.configureCue l
              { enabled := enabled, programme := p, polarity := polarity, width := x, action := action,
                captureRelease := capture })
            (x != v) []

/-- DROP_CUE_ENTRIES (R155): the response carries the number removed and the depth remaining. -/
def serveDropCueEntries : Serve := fun port _ payload s =>
  needFull port s <| needSize 1 payload s <|
    let n := min (byteAt payload 0).toNat s.cueLog.length
    report { s with cueLog := s.cueLog.drop n } [count8 n, count8 (s.cueLog.length - n)]

/-- RESET_DEVICE (R187): the reset is held until the response has been sent. -/
def serveResetDevice : Serve := fun port _ payload s =>
  needFull port s <| needSize 0 payload s <| needClaim port deviceRecord s <|
    done { s with resetRequest := some port }

/-- LOAD_SCAN_TABLE (R44). -/
def execLoadScanTable (port : Port) (target : Byte) (payload : List Byte) (s : State) :
    Host.Outcome State Fault Refusal :=
  .next (s.takeMessage port 0x30 target payload serveLoadScanTable)

/-- SET_SCAN_PERIOD (R40). -/
def execSetScanPeriod (port : Port) (target : Byte) (payload : List Byte) (s : State) :
    Host.Outcome State Fault Refusal :=
  .next (s.takeMessage port 0x31 target payload serveSetScanPeriod)

/-- CONFIG_CUE (R143). -/
def execConfigCue (port : Port) (target : Byte) (payload : List Byte) (s : State) : Host.Outcome State Fault Refusal :=
  .next (s.takeMessage port 0x32 target payload serveConfigCue)

/-- DROP_CUE_ENTRIES (R155). -/
def execDropCueEntries (port : Port) (target : Byte) (payload : List Byte) (s : State) :
    Host.Outcome State Fault Refusal :=
  .next (s.takeMessage port 0x33 target payload serveDropCueEntries)

/-- RESET_DEVICE (R187). -/
def execResetDevice (port : Port) (target : Byte) (payload : List Byte) (s : State) : Host.Outcome State Fault Refusal :=
  .next (s.takeMessage port 0x34 target payload serveResetDevice)

end Sys2Proof.Machine
end

