-- ==== Sys2Proof/Machine/Measurement.lean ====
section
/-! DEFINITION. What a frame leaves due, as commands of their own: the end of a ramp, the completion of a sub-block and the scan
tick (R105, R29, R39). -/

namespace Sys2Proof.Machine

/-- RAMP_END (R105) of programme `p`, where its ramp has no frames left. -/
def execRampEnd (p : Prog) (s : State) : Host.Outcome State Fault Refusal :=
  .next (if s.held then s else s.onProg p fun P => { P with out := P.out.endRamp })

/-- SUBBLOCK_COMPLETION (R29) of programme `p`, where its frame count has reached 4800. -/
def execSubblockCompletion (p : Prog) (s : State) : Host.Outcome State Fault Refusal :=
  .next (if s.held then s else (s.complete p).followFrom s)

/-- SCAN_TICK (R39, R46), where the divider has expired. -/
def execScanTick (s : State) : Host.Outcome State Fault Refusal := .next (if s.held then s else s.tick.followFrom s)

end Sys2Proof.Machine
end

