-- ==== Sys2Proof/Machine/Reads.lean ====
section
/-! DEFINITION. The six reads: what each response carries, and the meanings of their commands (R75, R131, R154, R182,
R183, R186, R199). -/

namespace Sys2Proof.Machine

/-- The presence bits of the programme status record, byte 1 (section 10.9). -/
def Programme.statusBits (P : Programme) : Byte :=
  count8 (packBits
    [P.inService = 1, P.requestPause, P.settled, P.gd.isSome, P.readingM.isSome, P.readingS.isSome,
     P.readingI.isSome])

/-- A limiter quantity in whole units of 0.01 dB, rounded up (R115). -/
def wholeReduction (d : Nat) : Nat := (d + 47) / 48

/-- The programme status record of 40 bytes (R182, section 10.9). -/
def State.programmeStatus (s : State) (p : Prog) : List Byte :=
  let P := s.prog p
  [count8 P.mode.code, P.statusBits, count8 P.cuePause, stationByte (s.holder (progRecord p)),
   match s.head p with
   | some q => count8 q.val
   | none => 0xFF] ++
  signed16 P.gcur ++ signed16 (P.gd.getD 0) ++ signed16 P.trim ++
  signed16 (P.readingM.getD 0) ++ signed16 (P.readingS.getD 0) ++ signed16 (P.readingI.getD 0) ++
  count32 P.histogram.n1 ++ count32 P.histogram.below ++ bytes32 P.front.counter ++
  [count8 P.queue.length] ++ count16 P.lost ++ [count8 P.deviation.code, count8 P.faultCount] ++
  count16 (wholeReduction P.out.reduction) ++ count16 (wholeReduction P.out.peak) ++ count16 P.out.clips

/-- READ_PROGRAMME (R182). -/
def serveReadProgramme : Serve := fun _ target payload s =>
  needSize 0 payload s <| needBelow 8 target s fun p => report s (s.programmeStatus p)

/-- The value of a numeric field (R121). -/
def Profile.get (f : Profile) : Field → Int
  | .target => f.target
  | .ceiling => f.ceiling
  | .gainMin => f.gainMin
  | .gainMax => f.gainMax
  | .upRate => f.upRate
  | .downRate => f.downRate
  | .deadband => f.deadband
  | .holdThreshold => f.holdThreshold
  | .warnDev => f.warnDev
  | .faultDev => f.faultDev
  | .faultVisits => f.faultVisits
  | .settleTol => f.settleTol
  | .settleCount => f.settleCount
  | .release => f.release

/-- The response payload of READ_PROFILE (R186). Of the byte that holds the steering, the index and the enable flag, R186 gives bits 0
to 2: bits 3 to 7 are sent as 0 (DESIGN CHOICE, log entry 28). -/
def Programme.profileReport (P : Programme) (i : Slot) : List Byte :=
  let f := P.slots[i]
  let label := f.label.getD []
  [count8 i.val] ++ allFields.flatMap (fun x => signed16 (f.get x)) ++
  [count8 (packBits [f.steering = .integrated, P.inService = 1, P.schedule.enabled]), count8 label.length] ++ label ++
  bytes32 P.schedule.compareA ++ bytes32 P.schedule.compareB ++ bytes32 P.schedule.increment

/-- READ_PROFILE (R131). -/
def serveReadProfile : Serve := fun _ target payload s =>
  needSize 1 payload s <| needBelow 8 target s fun p => needBelow 2 (byteAt payload 0) s fun i =>
    report s ((s.prog p).profileReport i)

/-- The number of bins a READ_HISTOGRAM returns: the count clamped into 1..16, then to the bins from the start on (R75). -/
def binsReturned (start count : Nat) : Nat := min (max 1 (min count 16)) (292 - start)

/-- The response payload of READ_HISTOGRAM (R186). -/
def Histogram.report (h : Histogram) (start n : Nat) : List Byte :=
  count16 start ++ [count8 n] ++ ((h.bins.toList.drop start).take n).flatMap count16 ++ count32 h.n1 ++ count32 h.below

/-- READ_HISTOGRAM (R75). -/
def serveReadHistogram : Serve := fun _ target payload s =>
  needSize 3 payload s <| needBelow 8 target s fun p =>
    let start := (word16At payload 0).toNat
    let count := (byteAt payload 2).toNat
    if 291 < start then refuse s .badRequest
    else
      let n := binsReturned start count
      doneClamped s (n != count) ((s.prog p).histogram.report start n)

/-- The seven bytes of a cue log entry (section 10.9). -/
def CueEntry.bytes (e : CueEntry) : List Byte :=
  [count8 (e.line.val + 4 * (decide (e.kind = .released)).toNat + 8 * e.action.code + 32 * e.gap.toNat +
    64 * e.offset.isSome.toNat)] ++
  bytes32 e.counter ++ count16 (e.offset.getD 0 + 8192 * e.programme.val)

/-- READ_CUE_LOG (R154). -/
def serveReadCueLog : Serve := fun _ _ payload s =>
  needSize 0 payload s <|
    report s ([count8 s.cueLog.length, count8 s.gapMark.toNat] ++ s.cueLog.flatMap CueEntry.bytes)

/-- The three bytes of a cue line (R183). -/
def CueState.bytes (c : CueState) : List Byte :=
  [count8 (packBits [c.config.enabled, c.config.polarity = .activeLow, c.config.captureRelease, c.asserted] +
    16 * c.config.action.code),
   count8 c.config.programme.val, count8 c.config.width]

/-- The payload of READ_DEVICE, 39 bytes (R183). -/
def State.deviceReport (s : State) : List Byte :=
  [count8 s.record.kind.code, stationByte s.record.station, count8 s.scan.table.length] ++
  s.scan.table.map scanEntryByte ++ List.replicate (16 - s.scan.table.length) 0xFF ++
  [count8 s.scan.next] ++ count16 s.scan.reload ++
  [count8 s.clockLost.toNat, count8 (packBits s.links.toList)] ++ allLines.flatMap (fun l => (s.cue l).bytes) ++
  [count8 (packBits (allPorts.map fun p => (s.port p).isAbsent)),
   count8 (packBits (allPorts.map fun p => (s.port p).access = .readOnly)), stationByte (s.holder deviceRecord)]

/-- READ_DEVICE (R183). -/
def serveReadDevice : Serve := fun _ _ payload s => needSize 0 payload s <| report s s.deviceReport

/-- A set of sources as a 16-bit word (R180). -/
def setBytes (x : SourceSet) : List Byte := bytes16 (x.setWidth 16)

/-- READ_NOTICES (R199). -/
def serveReadNotices : Serve := fun port _ payload s =>
  let n := s.notice port
  needSize 0 payload s <| report s (setBytes n.mask ++ setBytes n.modes ++ setBytes n.pending ++ setBytes s.conditions)

/-! ### The meanings -/

/-- READ_PROGRAMME (R182). -/
def execReadProgramme (port : Port) (target : Byte) (payload : List Byte) (s : State) : Host.Outcome State Fault Refusal :=
  .next (s.takeMessage port 0x01 target payload serveReadProgramme)

/-- READ_PROFILE (R131). -/
def execReadProfile (port : Port) (target : Byte) (payload : List Byte) (s : State) : Host.Outcome State Fault Refusal :=
  .next (s.takeMessage port 0x02 target payload serveReadProfile)

/-- READ_HISTOGRAM (R75). -/
def execReadHistogram (port : Port) (target : Byte) (payload : List Byte) (s : State) :
    Host.Outcome State Fault Refusal :=
  .next (s.takeMessage port 0x03 target payload serveReadHistogram)

/-- READ_CUE_LOG (R154). -/
def execReadCueLog (port : Port) (target : Byte) (payload : List Byte) (s : State) : Host.Outcome State Fault Refusal :=
  .next (s.takeMessage port 0x04 target payload serveReadCueLog)

/-- READ_DEVICE (R183). -/
def execReadDevice (port : Port) (target : Byte) (payload : List Byte) (s : State) : Host.Outcome State Fault Refusal :=
  .next (s.takeMessage port 0x05 target payload serveReadDevice)

/-- READ_NOTICES (R199). -/
def execReadNotices (port : Port) (target : Byte) (payload : List Byte) (s : State) : Host.Outcome State Fault Refusal :=
  .next (s.takeMessage port 0x06 target payload serveReadNotices)

end Sys2Proof.Machine
end

