-- ==== Sys2Proof/Machine/NoticeRequests.lean ====
section
/-! DEFINITION. The three notice requests (R194 to R197). -/

namespace Sys2Proof.Machine

/-- The set of sources a payload carries, `none` where one of bits 13 to 15 is set (R194). -/
def sourceSetOf (w : BitVec 16) : Option SourceSet := if w.toNat < 2 ^ 13 then some (w.setWidth 13) else none

/-- The mask becomes `m` (R195): a source disabled loses its bit, and a LEVEL condition enabled has its bit set to the
condition's value `now`. -/
def Notice.setMask (n : Notice) (now m : SourceSet) : Notice :=
  { n with mask := m, pending := (n.pending &&& m) ||| (m &&& ~~~n.mask &&& n.modes &&& now) }

/-- The mode set becomes the condition sources of `m` (R196): an enabled condition that goes from EDGE to LEVEL has its bit
set to its value `now`, a disabled one stays clear, and one that goes from LEVEL to EDGE keeps its bit. -/
def Notice.setModes (n : Notice) (now m : SourceSet) : Notice :=
  let modes := m &&& conditionSources
  let toLevel := modes &&& ~~~n.modes
  { n with modes := modes, pending := (n.pending &&& ~~~toLevel) ||| (toLevel &&& n.mask &&& now) }

/-- The named bits of event sources and EDGE conditions are cleared; those of LEVEL conditions are left (R197). -/
def Notice.acknowledge (n : Notice) (x : SourceSet) : Notice := { n with pending := n.pending &&& ~~~(x &&& ~~~n.modes) }

/-- A notice request of `port` that rewrites its own notice sets by `f`; the response is its pending set (R194). -/
def serveNotice (f : SourceSet → SourceSet → Notice → Notice) : Serve := fun port _ payload s =>
  needSize 2 payload s <| needValue (sourceSetOf (word16At payload 0)) s fun x =>
    let s' := s.mapNotices fun p n => if p = port then f s.conditions x n else n
    report s' (setBytes (s'.notice port).pending)

/-- SET_NOTICE_MASK (R195). -/
def serveSetNoticeMask : Serve := serveNotice fun now x n => n.setMask now x

/-- SET_NOTICE_MODE (R196). -/
def serveSetNoticeMode : Serve := serveNotice fun now x n => n.setModes now x

/-- ACK_NOTICES (R197). -/
def serveAckNotices : Serve := serveNotice fun _ x n => n.acknowledge x

/-- SET_NOTICE_MASK (R195). -/
def execSetNoticeMask (port : Port) (target : Byte) (payload : List Byte) (s : State) :
    Host.Outcome State Fault Refusal :=
  .next (s.takeMessage port 0x40 target payload serveSetNoticeMask)

/-- SET_NOTICE_MODE (R196). -/
def execSetNoticeMode (port : Port) (target : Byte) (payload : List Byte) (s : State) :
    Host.Outcome State Fault Refusal :=
  .next (s.takeMessage port 0x41 target payload serveSetNoticeMode)

/-- ACK_NOTICES (R197). -/
def execAckNotices (port : Port) (target : Byte) (payload : List Byte) (s : State) : Host.Outcome State Fault Refusal :=
  .next (s.takeMessage port 0x42 target payload serveAckNotices)

end Sys2Proof.Machine
end

