-- ==== Sys2Proof/Machine/ProfileRequests.lean ====
section
/-! DEFINITION. The profile store's requests: WRITE_PROFILE and COPY_PROFILE (R124 to R130, R184). -/

namespace Sys2Proof.Machine

/-- A numeric field given a value. -/
def Profile.put (f : Profile) (x : Field) (v : Int) : Profile :=
  match x with
  | .target => { f with target := v }
  | .ceiling => { f with ceiling := v }
  | .gainMin => { f with gainMin := v }
  | .gainMax => { f with gainMax := v }
  | .upRate => { f with upRate := v }
  | .downRate => { f with downRate := v }
  | .deadband => { f with deadband := v }
  | .holdThreshold => { f with holdThreshold := v }
  | .warnDev => { f with warnDev := v }
  | .faultDev => { f with faultDev := v }
  | .faultVisits => { f with faultVisits := v }
  | .settleTol => { f with settleTol := v }
  | .settleCount => { f with settleCount := v }
  | .release => { f with release := v }

/-- The lowest value of a numeric field; that of fault_dev is the slot's warn_dev (R121). -/
def Profile.lowest (f : Profile) : Field → Int
  | .target => -4000
  | .ceiling => -1200
  | .gainMin => -2400
  | .gainMax => 0
  | .upRate => 1
  | .downRate => 1
  | .deadband => 0
  | .holdThreshold => -7000
  | .warnDev => 100
  | .faultDev => f.warnDev
  | .faultVisits => 1
  | .settleTol => 10
  | .settleCount => 0
  | .release => 1

/-- The highest value of a numeric field (R121). -/
def highestOf : Field → Int
  | .target => -1000
  | .ceiling => 0
  | .gainMin => 0
  | .gainMax => 1200
  | .upRate => 200
  | .downRate => 400
  | .deadband => 300
  | .holdThreshold => -2000
  | .warnDev => 2000
  | .faultDev => 3000
  | .faultVisits => 255
  | .settleTol => 500
  | .settleCount => 255
  | .release => 100

/-- A slot being written, and the set of its fields counted as clamped (R126). -/
structure Writing where
  profile : Profile
  clamped : BitVec 16
  deriving DecidableEq, Repr

/-- The field numbered `n` is counted as clamped if `b`. -/
def Writing.count (w : Writing) (n : Nat) (b : Bool) : Writing :=
  if b then { w with clamped := w.clamped ||| BitVec.twoPow 16 n } else w

/-- A numeric field takes its turn: if it is named, its value is stored as the nearest end of the range as the range stands,
and is counted as clamped if that changed it (R126). -/
def Writing.number (items : List ProfileItem) (w : Writing) (f : Field) : Writing :=
  match numberIn items f with
  | none => w
  | some v =>
    let x := limit (w.profile.lowest f) (highestOf f) v
    { w with profile := w.profile.put f x }.count f.id (x != v)

/-- The steering takes its turn; the checks have left only 0 and 1 (R121, R184). -/
def Writing.steering (items : List ProfileItem) (w : Writing) : Writing :=
  match steeringIn items with
  | none => w
  | some v => { w with profile := { w.profile with steering := if v = 1 then .integrated else .short } }

/-- After warn_dev, a fault_dev below it is raised to equal it and is counted as clamped, named or not (R126, its second and third
case). A named value that is then stored as given stays counted. -/
def Writing.raiseFault (w : Writing) : Writing :=
  if w.profile.faultDev < w.profile.warnDev then
    { w with profile := { w.profile with faultDev := w.profile.warnDev } }.count Field.faultDev.id true
  else w

/-- The label takes its turn: one with no characters makes it absent (R122). -/
def Writing.label (items : List ProfileItem) (w : Writing) : Writing :=
  match labelIn items with
  | none => w
  | some chars => { w with profile := { w.profile with label := if chars = [] then none else some chars } }

/-- The items of an accepted WRITE_PROFILE applied to a slot in the order of the rows of R121 (R126). -/
def Profile.write (f : Profile) (items : List ProfileItem) : Writing :=
  let w : Writing := { profile := f, clamped := 0 }
  let w := [Field.target, .ceiling, .gainMin, .gainMax, .upRate, .downRate, .deadband, .holdThreshold].foldl
    (Writing.number items) w
  let w := ((w.steering items).number items .warnDev).raiseFault
  ([Field.faultDev, .faultVisits, .settleTol, .settleCount, .release].foldl (Writing.number items) w).label items

/-- Slot `i` of programme `p` takes the contents `f`. A change of the gain bounds of the slot in service counts as an
in-service slot change for the gain clamp (R95, R127). -/
def State.storeSlot (s : State) (p : Prog) (i : Slot) (f : Profile) : State :=
  let P := s.prog p
  let old := P.slots[i]
  let s := s.onProg p fun P => { P with slots := P.slots.set i.val f }
  if P.inService = i ∧ (old.gainMin ≠ f.gainMin ∨ old.gainMax ≠ f.gainMax) then s.clampGain p else s

/-- WRITE_PROFILE (R125, R184). -/
def serveWriteProfile : Serve := fun port target payload s =>
  needFull port s <|
    if payload = [] then refuse s .badRequest
    else needBelow 8 target s fun p => needBelow 2 (byteAt payload 0) s fun i =>
      needValue (profileItems payload.tail) s fun items =>
        needClaim port (progRecord p) s <| needIdleSlot p i s <|
          let w := (s.prog p).slots[i].write items
          doneClamped (s.storeSlot p i w.profile) (w.clamped != 0) (bytes16 w.clamped)

/-- COPY_PROFILE (R129): TARGET is the destination programme; the payload is the destination slot, the source programme and
the source slot. -/
def serveCopyProfile : Serve := fun port target payload s =>
  needFull port s <| needSize 3 payload s <| needBelow 8 target s fun p => needBelow 2 (byteAt payload 0) s fun i =>
    needBelow 8 (byteAt payload 1) s fun q => needBelow 2 (byteAt payload 2) s fun j =>
      if p = q ∧ i = j then refuse s .badTarget
      else needClaim port (progRecord p) s <| needIdleSlot p i s <|
        done (s.storeSlot p i (s.prog q).slots[j])

/-- WRITE_PROFILE (R125). -/
def execWriteProfile (port : Port) (target : Byte) (payload : List Byte) (s : State) :
    Host.Outcome State Fault Refusal :=
  .next (s.takeMessage port 0x21 target payload serveWriteProfile)

/-- COPY_PROFILE (R129). -/
def execCopyProfile (port : Port) (target : Byte) (payload : List Byte) (s : State) : Host.Outcome State Fault Refusal :=
  .next (s.takeMessage port 0x22 target payload serveCopyProfile)

end Sys2Proof.Machine
end

