-- ==== Sys2Proof/Machine/ProgrammeRequests.lean ====
section
/-! DEFINITION. The requests that change one programme's mode, pause state, measurement or counter (R10 to R19, R69,
R132 to R139). -/

namespace Sys2Proof.Machine

/-! ### Modes (R10 to R14) -/

/-- A programme enters OFF (R11): the partial sub-block is discarded, the settle state is cleared, and all the rest is
kept as it stands. -/
def Programme.enterOff (P : Programme) : Programme :=
  { P.unsettle with mode := .off, front := P.front.discard }

/-- The processed branch is filled with zeros and D is 0, as a programme leaves OFF (R12). While the clock is lost both wait for its
return, whose fill contains them (R7, R8), and D stands frozen until then (R110; log entry 19). -/
def OutputStage.startAfresh (lost : Bool) (o : OutputStage) : OutputStage :=
  if lost then o else { o.fillProcessed with reduction := 0 }

/-- A programme leaves OFF for `m` (R12): a fresh sub-block, Gcur 0, the output stage started afresh, and the factor of Gcur with no
ramp. -/
def Programme.leaveOff (lost : Bool) (m : Mode) (P : Programme) : Programme :=
  { P.unsettle with
    mode := m
    gcur := 0
    front := P.front.discard
    out := (P.out.startAfresh lost).setFactor (factor 0) }

/-- The applied factor is set at once to the factor of Gcur, with no ramp (R12). -/
def Programme.settleFactor (P : Programme) : Programme := { P with out := P.out.setFactor (factor P.gcur) }

/-- The mode of `p` changes to `m` (R8, R10 to R14); a mode it already has changes nothing. -/
def State.changeMode (s : State) (p : Prog) (m : Mode) : State :=
  let old := (s.prog p).mode
  if old = m then s
  else
    let s' :=
      match m with
      | .off => s.onProg p Programme.enterOff
      | .measure =>
        if old = Mode.off then s.onProg p (Programme.leaveOff s.clockLost .measure)
        else s.onProg p fun P => { (P.moveGain 0).unsettle with mode := .measure }
      | .active =>
        if old = Mode.off then ((s.onProg p (Programme.leaveOff s.clockLost .active)).joinGroup p).onProg p Programme.settleFactor
        else (s.onProg p fun P => { P.unsettle with mode := .active }).joinGroup p
    s'.fireSettled s p

/-- SET_MODE (R10). -/
def serveSetMode : Serve := fun port target payload s =>
  needFull port s <| needSize 1 payload s <| needBelow 8 target s fun p =>
    needValue (modeOf (byteAt payload 0)) s fun m => needClaim port (progRecord p) s <| done (s.changeMode p m)

/-! ### Pause (R16) -/

/-- PAUSE (R16). -/
def servePause : Serve := fun port target payload s =>
  needFull port s <| needSize 0 payload s <| needBelow 8 target s fun p => needClaim port (progRecord p) s <|
    done (s.onProg p fun P => { P with requestPause := true })

/-- RESUME (R16). -/
def serveResume : Serve := fun port target payload s =>
  needFull port s <| needSize 0 payload s <| needBelow 8 target s fun p => needClaim port (progRecord p) s <|
    done (s.onProg p fun P => { P with requestPause := false })

/-! ### Programme reset (R18, R19) -/

/-- The output stage of a programme reset: D and the statistics are cleared, and the factor goes to unity at once in OFF
and by a ramp otherwise (R18, R19). -/
def OutputStage.resetGain (o : OutputStage) (m : Mode) : OutputStage :=
  let o := { o with reduction := 0, peak := 0, clips := 0 }
  if m = .off then o.setFactor unity
  else if o.applied ≠ unity ∨ o.ramp.any (·.fin ≠ unity) then o.startRamp unity
  else o

/-- The table of R18 for one programme. -/
def Programme.clearMeasurement (P : Programme) : Programme :=
  { P.unsettle with
    front := .reset
    queue := []
    lost := 0
    momentary := .empty
    shortTerm := .empty
    histogram := .empty
    readingM := none
    readingS := none
    readingI := none
    gcur := 0
    gd := none
    trim := 0
    deviation := .normal
    faultCount := 0
    out := P.out.resetGain P.mode }

/-- A programme reset (R18, R19). A sub-block that the last frame filled is completed first (R36). An ACTIVE programme
then takes the joining value of its group with Gcur 0. -/
def State.resetProgramme (s : State) (p : Prog) : State :=
  let s := s.complete p
  let s1 := s.onProg p Programme.clearMeasurement
  let s2 := if (s.prog p).mode = .active then s1.joinGroup p else s1
  s2.fireSettled s p

/-- RESET_PROGRAMME (R18). -/
def serveResetProgramme : Serve := fun port target payload s =>
  needFull port s <| needSize 0 payload s <| needBelow 8 target s fun p => needClaim port (progRecord p) s <|
    done (s.resetProgramme p)

/-- RESTART_SEGMENT (R69). -/
def serveRestartSegment : Serve := fun port target payload s =>
  needFull port s <| needSize 0 payload s <| needBelow 8 target s fun p => needClaim port (progRecord p) s <|
    done (s.onProg p Programme.restartSegment)

/-! ### Trim, schedule, slot and counter (R132 to R139) -/

/-- SET_TRIM (R132). -/
def serveSetTrim : Serve := fun port target payload s =>
  needFull port s <| needSize 2 payload s <| needBelow 8 target s fun p => needClaim port (progRecord p) s <|
    let v := (word16At payload 0).toInt
    let x := limit (-1200) 1200 v
    doneClamped (s.onProg p fun P => { P with trim := x }) (x != v) []

/-- The largest increment of a schedule comparator (R133). -/
def maxIncrement : Count32 := 0x80000000

/-- SET_SCHEDULE (R134). -/
def serveSetSchedule : Serve := fun port target payload s =>
  needFull port s <| needSize 13 payload s <| needBelow 8 target s fun p =>
    needValue (boolOf (byteAt payload 12)) s fun enable => needClaim port (progRecord p) s <|
      let v := word32At payload 8
      let x := if maxIncrement < v then maxIncrement else v
      doneClamped
        (s.onProg p fun P =>
          { P with schedule :=
            { compareA := word32At payload 0, compareB := word32At payload 4, increment := x, enabled := enable } })
        (x != v) []

/-- FORCE_SLOT (R138): a slot already in service changes nothing. -/
def serveForceSlot : Serve := fun port target payload s =>
  needFull port s <| needSize 1 payload s <| needBelow 8 target s fun p => needBelow 2 (byteAt payload 0) s fun i =>
    needClaim port (progRecord p) s <| done (if (s.prog p).inService = i then s else s.switchSlot p)

/-- SET_COUNT (R139). -/
def serveSetCount : Serve := fun port target payload s =>
  needFull port s <| needSize 4 payload s <| needBelow 8 target s fun p => needClaim port (progRecord p) s <|
    done (s.onProg p fun P => { P with front := { P.front with counter := word32At payload 0 } })

/-! ### Links (R88) -/

/-- Link flag `k` is given the setting `b` (R88): setting it joins two groups, clearing it moves no gain (R90). -/
def State.setLink (s : State) (k : LinkFlag) (b : Bool) : State :=
  if s.link k.val = b then s
  else
    let s := { s with links := s.links.set k.val b }
    if b then s.joinGroup k.castSucc else s

/-- SET_LINK (R88): the claims on programmes `k` and `k+1`, in that order. -/
def serveSetLink : Serve := fun port target payload s =>
  needFull port s <| needSize 1 payload s <| needBelow 7 target s fun k =>
    needValue (boolOf (byteAt payload 0)) s fun b =>
      needClaim port (progRecord k.castSucc) s <| needClaim port (progRecord k.succ) s <| done (s.setLink k b)

/-! ### The meanings -/

/-- SET_MODE (R10). -/
def execSetMode (port : Port) (target : Byte) (payload : List Byte) (s : State) : Host.Outcome State Fault Refusal :=
  .next (s.takeMessage port 0x20 target payload serveSetMode)

/-- SET_TRIM (R132). -/
def execSetTrim (port : Port) (target : Byte) (payload : List Byte) (s : State) : Host.Outcome State Fault Refusal :=
  .next (s.takeMessage port 0x23 target payload serveSetTrim)

/-- SET_SCHEDULE (R134). -/
def execSetSchedule (port : Port) (target : Byte) (payload : List Byte) (s : State) : Host.Outcome State Fault Refusal :=
  .next (s.takeMessage port 0x24 target payload serveSetSchedule)

/-- FORCE_SLOT (R138). -/
def execForceSlot (port : Port) (target : Byte) (payload : List Byte) (s : State) : Host.Outcome State Fault Refusal :=
  .next (s.takeMessage port 0x25 target payload serveForceSlot)

/-- SET_COUNT (R139). -/
def execSetCount (port : Port) (target : Byte) (payload : List Byte) (s : State) : Host.Outcome State Fault Refusal :=
  .next (s.takeMessage port 0x26 target payload serveSetCount)

/-- RESTART_SEGMENT (R69). -/
def execRestartSegment (port : Port) (target : Byte) (payload : List Byte) (s : State) :
    Host.Outcome State Fault Refusal :=
  .next (s.takeMessage port 0x27 target payload serveRestartSegment)

/-- PAUSE (R16). -/
def execPause (port : Port) (target : Byte) (payload : List Byte) (s : State) : Host.Outcome State Fault Refusal :=
  .next (s.takeMessage port 0x28 target payload servePause)

/-- RESUME (R16). -/
def execResume (port : Port) (target : Byte) (payload : List Byte) (s : State) : Host.Outcome State Fault Refusal :=
  .next (s.takeMessage port 0x29 target payload serveResume)

/-- RESET_PROGRAMME (R18). -/
def execResetProgramme (port : Port) (target : Byte) (payload : List Byte) (s : State) :
    Host.Outcome State Fault Refusal :=
  .next (s.takeMessage port 0x2A target payload serveResetProgramme)

/-- SET_LINK (R88). -/
def execSetLink (port : Port) (target : Byte) (payload : List Byte) (s : State) : Host.Outcome State Fault Refusal :=
  .next (s.takeMessage port 0x2B target payload serveSetLink)

end Sys2Proof.Machine
end

