-- ==== Sys2Proof/Machine/Resets.lean ====
section
/-! DEFINITION. The resets of the part: power-on, the reset pin, the requested reset and the end of a hold (R187, R188,
R200 to R202). -/

namespace Sys2Proof.Machine

/-- Any reset (R20, R21, R38, R42, R43, R56, R74, R101, R123, R133, R142, R150, R170, R188, R202): every block takes its reset
value, each port under the access class `access` gives it, and the reset record is written. No condition change is taken and
nothing fires beside DEVICE_RESET, which `State.reset` holds pending. The waiting commands are no state of the part and stay; an
expiry among them whose timer the reset restarts is overtaken (log entry 25). -/
def State.resetTo (s : State) (held : Bool) (record : ResetRecord) (access : Port → Access) : State :=
  { State.reset with
    held := held
    record := record
    ports := Vector.ofFn fun p => { PortState.reset (access p) with overtaken := (s.port p).passed }
    pending := s.pending }

/-- The class that a strap level selects: low FULL, high READ_ONLY (R178). -/
def strapAccess (straps : BitVec 3) (p : Port) : Access := if straps.getLsbD p.val then .readOnly else .full

/-- The classes as they stand, kept by every reset but power-on (R178). -/
def State.classes (s : State) (p : Port) : Access := (s.port p).access

/-- The requested reset of station `p` (R187): the effects of a pin reset under a record of kind REQUEST. No pin holds the
part, so no hold follows (log entry 12). -/
def State.requestedReset (s : State) (p : Port) : State :=
  s.resetTo false { kind := .request, station := some p } s.classes

/-- POWER_ON (R200, R178, R201): the part is reset and held, and the classes are those of the straps. -/
def execPowerOn (straps : BitVec 3) (s : State) : Host.Outcome State Fault Refusal :=
  .next (s.resetTo true { kind := .powerOn, station := none } (strapAccess straps))

/-- PIN_RESET (R200, R187): the part is reset and held under its present classes, and a held RESET_DEVICE is forgotten. In a hold
it changes nothing: RST_N low through the end of power-on prolongs the one reset. -/
def execPinReset (s : State) : Host.Outcome State Fault Refusal :=
  .next (if s.held then s else s.resetTo true { kind := .pin, station := none } s.classes)

/-- RESET_END (R200): the hold ends, the silence timers start from 5.0 s and the monitor watches from LOST. -/
def execResetEnd (s : State) : Host.Outcome State Fault Refusal :=
  .next (if s.held then
    { s with
      held := false
      monitor := .lost none
      ports := Vector.ofFn fun p => { s.port p with presence := .present silenceCycles } }
    else s)

/-- REQUESTED_RESET (R187): the RESET_DEVICE that waits acts. -/
def execRequestedReset (s : State) : Host.Outcome State Fault Refusal :=
  .next (match s.held, s.resetRequest with
    | false, some p => s.requestedReset p
    | _, _ => s)

end Sys2Proof.Machine
end

