-- ==== Sys2Proof/Machine/Ports.lean ====
section
/-! DEFINITION. The receive half of a port byte by byte, the serving flag, and the requests of no known code (R175 to R179). -/

namespace Sys2Proof.Machine

/-- The request of each code (section 10.9). -/
def requestTable : List (Byte × Serve) :=
  [(0x01, serveReadProgramme), (0x02, serveReadProfile), (0x03, serveReadHistogram), (0x04, serveReadCueLog),
   (0x05, serveReadDevice), (0x06, serveReadNotices), (0x10, serveClaim), (0x11, serveRelease), (0x20, serveSetMode),
   (0x21, serveWriteProfile), (0x22, serveCopyProfile), (0x23, serveSetTrim), (0x24, serveSetSchedule),
   (0x25, serveForceSlot), (0x26, serveSetCount), (0x27, serveRestartSegment), (0x28, servePause), (0x29, serveResume),
   (0x2A, serveResetProgramme), (0x2B, serveSetLink), (0x30, serveLoadScanTable), (0x31, serveSetScanPeriod),
   (0x32, serveConfigCue), (0x33, serveDropCueEntries), (0x34, serveResetDevice), (0x40, serveSetNoticeMask),
   (0x41, serveSetNoticeMode), (0x42, serveAckNotices)]

/-- A request of no known code is answered BAD_REQUEST on ports of both classes (R179, step 1). -/
def serveUnknown : Serve := fun _ _ _ s => refuse s .badRequest

/-- How a request of this code is served. -/
def serveCode (code : Byte) : Serve := ((requestTable.find? (·.1 = code)).map (·.2)).getD serveUnknown

/-! ### The receive half (R175) -/

/-- The receive half of `port` becomes IDLE. -/
def State.stopReceiving (s : State) (port : Port) : State := s.onPort port fun P => { P with receive := .idle }

/-- The receive half of `port` holds `bytes` of a message, and the inter-byte timer starts afresh. -/
def State.receiveOn (s : State) (port : Port) (bytes : List Byte) : State :=
  s.onPort port fun P => { P with receive := .receiving bytes interByteCycles }

/-- The bytes between SYNC and CHECK of a message whose LENGTH is the first of `bytes`. -/
def coveredLength (bytes : List Byte) : Nat := 1 + (byteAt bytes 0).toNat

/-- All of a message but its CHECK is in `bytes`. -/
def onlyCheckMissing (bytes : List Byte) : Bool := !bytes.isEmpty && coveredLength bytes ≤ bytes.length

/-- A LENGTH byte in range (R172). -/
def lengthOk (b : Byte) : Bool := 2 ≤ b.toNat && b.toNat ≤ 50

/-- A byte arrives while `bytes` are stored since the SYNC (R175). -/
def State.receiveByte (s : State) (port : Port) (bytes : List Byte) (b : Byte) : State :=
  if bytes = [] then
    if lengthOk b then s.receiveOn port [b] else s.stopReceiving port
  else if onlyCheckMissing bytes then
    if crc bytes = b then
      s.takeMessage port (byteAt bytes 1) (byteAt bytes 2) (bytes.drop 3) (serveCode (byteAt bytes 1))
    else s.stopReceiving port
  else s.receiveOn port (bytes ++ [b])

/-- BYTE_RECEIVED (R175). In a reset hold the ports take no byte (R200). -/
def execByteReceived (port : Port) (b : Byte) (s : State) : Host.Outcome State Fault Refusal :=
  .next (if s.held then s
    else match (s.port port).receive with
      | .idle => if b = syncByte then s.receiveOn port [] else s
      | .receiving bytes _ => s.receiveByte port bytes b)

/-- What is being received gives the cause its occasion: a LENGTH byte is due, or the CHECK byte is due, or any byte. -/
def discardOccasion (cause : DiscardCause) (bytes : List Byte) : Bool :=
  match cause with
  | .badLength => bytes.isEmpty
  | .framingError => true
  | .badCheck => onlyCheckMissing bytes

/-- MESSAGE_DISCARD (R175): the message in progress is discarded silently. A framing error on an IDLE half is ignored. -/
def execMessageDiscard (port : Port) (cause : DiscardCause) (s : State) : Host.Outcome State Fault Refusal :=
  .next (match s.held, (s.port port).receive with
    | false, .receiving bytes _ => if discardOccasion cause bytes then s.stopReceiving port else s
    | _, _ => s)

/-- INTER_BYTE_TIMEOUT (R175). -/
def execInterByteTimeout (port : Port) (s : State) : Host.Outcome State Fault Refusal :=
  .next (match s.held, (s.port port).receive with
    | false, .receiving _ _ => s.stopReceiving port
    | _, _ => s)

/-! ### The serving half (R176 to R179, R187) -/

/-- SERVING_DISCARD (R176): the message is heard and discarded. On a port that is not SERVING a message is no such discard, and
nothing changes. -/
def execServingDiscard (port : Port) (s : State) : Host.Outcome State Fault Refusal :=
  .next (match s.held, (s.port port).serving with
    | false, some _ => s.hear port
    | _, _ => s)

/-- UNKNOWN_REQUEST (R179): a message is served by its code, and a code outside the twenty-eight is answered BAD_REQUEST. -/
def execUnknownRequest (port : Port) (code target : Byte) (payload : List Byte) (s : State) :
    Host.Outcome State Fault Refusal :=
  .next (s.takeMessage port code target payload (serveCode code))

/-- RESPONSE_END (R176): the serving flag clears. Where the response is that of a RESET_DEVICE, the reset acts at the same instant
(R187). -/
def execResponseEnd (port : Port) (s : State) : Host.Outcome State Fault Refusal :=
  .next (match s.held, (s.port port).serving with
    | false, some _ =>
      if s.resetRequest = some port then s.requestedReset port
      else s.onPort port fun P => { P with serving := none }
    | _, _ => s)

end Sys2Proof.Machine
end

