-- ==== Sys2Proof/Machine/Dispatch.lean ====
section
/-! DEFINITION. One arm for each command. -/

namespace Sys2Proof.Machine

/-- The effect of a command on everything but the queue. -/
def exec (i : Instr) (s : State) : Host.Outcome State Fault Refusal :=
  match i with
  | .powerOn straps => Sys2Proof.Machine.execPowerOn straps s
  | .pinReset => Sys2Proof.Machine.execPinReset s
  | .resetEnd => Sys2Proof.Machine.execResetEnd s
  | .frameSync => Sys2Proof.Machine.execFrameSync s
  | .inputFrame slots => Sys2Proof.Machine.execInputFrame slots s
  | .rampEnd p => Sys2Proof.Machine.execRampEnd p s
  | .subblockCompletion p => Sys2Proof.Machine.execSubblockCompletion p s
  | .scanTick => Sys2Proof.Machine.execScanTick s
  | .clockLossDeclaration => Sys2Proof.Machine.execClockLossDeclaration s
  | .returnMeasurementStop => Sys2Proof.Machine.execReturnMeasurementStop s
  | .clockReturnDeclaration => Sys2Proof.Machine.execClockReturnDeclaration s
  | .cueAssertion l => Sys2Proof.Machine.execCueAssertion l s
  | .cueRelease l => Sys2Proof.Machine.execCueRelease l s
  | .stationAbsence port => Sys2Proof.Machine.execStationAbsence port s
  | .interByteTimeout port => Sys2Proof.Machine.execInterByteTimeout port s
  | .messageDiscard port cause => Sys2Proof.Machine.execMessageDiscard port cause s
  | .servingDiscard port => Sys2Proof.Machine.execServingDiscard port s
  | .unknownRequest port code target payload => Sys2Proof.Machine.execUnknownRequest port code target payload s
  | .responseEnd port => Sys2Proof.Machine.execResponseEnd port s
  | .requestedReset => Sys2Proof.Machine.execRequestedReset s
  | .readProgramme port target payload => Sys2Proof.Machine.execReadProgramme port target payload s
  | .readProfile port target payload => Sys2Proof.Machine.execReadProfile port target payload s
  | .readHistogram port target payload => Sys2Proof.Machine.execReadHistogram port target payload s
  | .readCueLog port target payload => Sys2Proof.Machine.execReadCueLog port target payload s
  | .readDevice port target payload => Sys2Proof.Machine.execReadDevice port target payload s
  | .readNotices port target payload => Sys2Proof.Machine.execReadNotices port target payload s
  | .claim port target payload => Sys2Proof.Machine.execClaim port target payload s
  | .release port target payload => Sys2Proof.Machine.execRelease port target payload s
  | .setMode port target payload => Sys2Proof.Machine.execSetMode port target payload s
  | .writeProfile port target payload => Sys2Proof.Machine.execWriteProfile port target payload s
  | .copyProfile port target payload => Sys2Proof.Machine.execCopyProfile port target payload s
  | .setTrim port target payload => Sys2Proof.Machine.execSetTrim port target payload s
  | .setSchedule port target payload => Sys2Proof.Machine.execSetSchedule port target payload s
  | .forceSlot port target payload => Sys2Proof.Machine.execForceSlot port target payload s
  | .setCount port target payload => Sys2Proof.Machine.execSetCount port target payload s
  | .restartSegment port target payload => Sys2Proof.Machine.execRestartSegment port target payload s
  | .pause port target payload => Sys2Proof.Machine.execPause port target payload s
  | .resume port target payload => Sys2Proof.Machine.execResume port target payload s
  | .resetProgramme port target payload => Sys2Proof.Machine.execResetProgramme port target payload s
  | .setLink port target payload => Sys2Proof.Machine.execSetLink port target payload s
  | .loadScanTable port target payload => Sys2Proof.Machine.execLoadScanTable port target payload s
  | .setScanPeriod port target payload => Sys2Proof.Machine.execSetScanPeriod port target payload s
  | .configCue port target payload => Sys2Proof.Machine.execConfigCue port target payload s
  | .dropCueEntries port target payload => Sys2Proof.Machine.execDropCueEntries port target payload s
  | .resetDevice port target payload => Sys2Proof.Machine.execResetDevice port target payload s
  | .setNoticeMask port target payload => Sys2Proof.Machine.execSetNoticeMask port target payload s
  | .setNoticeMode port target payload => Sys2Proof.Machine.execSetNoticeMode port target payload s
  | .ackNotices port target payload => Sys2Proof.Machine.execAckNotices port target payload s
  | .cueLineSample pins => Sys2Proof.Machine.execCueLineSample pins s
  | .byteReceived port b => Sys2Proof.Machine.execByteReceived port b s

end Sys2Proof.Machine
end

