-- ==== Sys2Proof/Machine/SerialLine.lean ====
section
/-! DEFINITION. A byte on the serial line of a port, one level for each bit time: what TXD carries and what a receiver makes of RXD
(R171, R188). The rate and the instants of the bit times are not modelled (log entries 3 and 15). -/

namespace Sys2Proof.Machine

/-- The ten levels of a byte, `true` for high: the low start bit, the data bits with the least significant first, and the high stop
bit (R171). -/
def lineLevels (b : Byte) : List Bool :=
  [false, b.getLsbD 0, b.getLsbD 1, b.getLsbD 2, b.getLsbD 3, b.getLsbD 4, b.getLsbD 5, b.getLsbD 6, b.getLsbD 7, true]

/-- The level of TXD of port `p` in bit time `k`, counted from the first start bit of the response being sent: the bytes of that
response follow one another with no idle time (R176), and the line is high where none is being sent (R171, R188). -/
def State.txdLevel (s : State) (p : Port) (k : Nat) : Bool :=
  (((s.port p).serving.getD []).flatMap lineLevels).getD k true

/-- What a receiver has seen of RXD (R171): an idle line, the start bit of a byte and its data bits so far, or a line that has been
low since a framing error. -/
inductive LineState
  | idle
  | inByte (bits : List Bool)
  | low
  deriving DecidableEq, Repr

/-- A receiver samples one bit time (R171). A falling edge of an idle line starts a byte. The ninth sample after it is the stop bit:
high, it makes the byte, and low, a framing error, after which the line gives no byte until it returns high. The commands are those
that tell port `p` of either. -/
def LineState.sample (p : Port) : LineState → Bool → LineState × Option Instr
  | .idle, level => (if level then .idle else .inByte [], none)
  | .low, level => (if level then .idle else .low, none)
  | .inByte bits, level =>
    if bits.length < 8 then (.inByte (bits ++ [level]), none)
    else if level then (.idle, some (.byteReceived p (count8 (packBits bits))))
    else (.low, some (.messageDiscard p .framingError))

/-- The commands that the levels of RXD give port `p`, for a receiver that has seen `l` (R171). -/
def lineCommands (p : Port) : LineState → List Bool → List Instr
  | _, [] => []
  | l, level :: rest => (l.sample p level).2.toList ++ lineCommands p (l.sample p level).1 rest

end Sys2Proof.Machine
end

