-- ==== Sys2Proof/Safety.lean ====
section
/-! DEFINITION. The terms in which claims speak of the part: what a served request leaves, the state after a reset, and the
invariants that the manual states in its prose. -/

namespace Sys2Proof.Machine

/-- `k` steps from `s`, stopping at the first fault or refusal. -/
def run (k : Nat) (s : State) : Host.Outcome State Fault Refusal := Host.Core.run Sys2Proof.core k s

/-! ### What an event or a request leaves at the ports and the notice unit -/

/-- The notice sets of `t` are those of `s` with the events of `fired` and with every change of a condition between `s` and
`t` taken (R192, R193). -/
def State.NoticesFollow (s t : State) (fired : SourceSet) : Prop :=
  ∀ q, t.notice q =
    { s.notice q with pending := (s.notice q).pending ||| ((s.notice q).mask &&& fired) }.follow s.conditions t.conditions

/-- A well-formed message on `port` has been heard between `s` and `t` (R165, R167, R175): its receive half is IDLE, its silence
timer is full, an expiry that waits on a timer run out is overtaken (R168, log entry 25), and nothing else of any port has changed,
but that `serving` is what the port now sends. -/
def State.Heard (s t : State) (port : Port) (serving : Option (List Byte)) : Prop :=
  t.port port =
    { s.port port with receive := .idle, presence := .present silenceCycles, serving := serving
                       overtaken := (s.port port).overtaken || decide ((s.port port).presence = .present 0) } ∧
  ∀ q, q ≠ port → t.port q = s.port q

/-- A request taken on `port` has been answered between `s` and `t` with the result `r` and `payload` (R173, R176), and the notice
unit has taken the events of `fired`. -/
def State.Answers (s t : State) (port : Port) (code target : Byte) (r : Result) (payload : List Byte)
    (fired : SourceSet) : Prop :=
  s.Heard t port (some (frameMessage (code :: target :: r.code :: payload))) ∧ s.NoticesFollow t fired

/-- A request on `port` would be taken now (R176, R200). -/
def State.Ready (s : State) (port : Port) : Prop := s.held = false ∧ (s.port port).serving = none

/-- A request on `port` would be taken now and pass the first stage of the order of checks (R161). -/
def State.ReadyFull (s : State) (port : Port) : Prop := s.Ready port ∧ (s.port port).access = .full

/-- A request on `port` that needs the claim on record `r` would be taken now and pass the check of the claim (R162). -/
def State.ReadyHolder (s : State) (port : Port) (r : ClaimRecord) : Prop := s.ReadyFull port ∧ s.holder r = some port

/-- A request has been refused between `s` and `t`: it is answered, and nothing else has changed (R163). -/
def State.Refuses (s t : State) (port : Port) (code target : Byte) (r : Result) (payload : List Byte) : Prop :=
  s.Answers t port code target r payload 0 ∧ t = { s with ports := t.ports, notices := t.notices }

/-- Programme `p` emits a pair with a clamped sample at its next frame step (R112). -/
def Programme.willClip (P : Programme) : Bool :=
  P.mode ≠ .off && (P.out.pipeline.headD .zero).clampTo (ceilingValue P.profile.ceiling) ≠ P.out.pipeline.headD .zero

/-! ### The front end and the change of a slot, spelled out -/

/-- The stage `c` has taken the input `x` between `st` and `st'` (R23, R24): its output is the integer nearest to the exact value, halves
away from zero, limited to -4.0..+4.0, in units of `2^-31`. -/
def StageState.Takes (c : Biquad) (st : StageState) (x : Int) (st' : StageState) : Prop :=
  let exact : ℚ := c.b0 * x + c.b1 * st.x1 + c.b2 * st.x2 - c.a1 * st.y1 - c.a2 * st.y2
  st'.x1 = x ∧ st'.x2 = st.x1 ∧ st'.y2 = st.y1 ∧
  ∃ n : Int, |exact - n| ≤ 1 / 2 ∧ (|exact - n| = 1 / 2 → |exact| < |(n : ℚ)|) ∧
    st'.y1 = max (-(2 ^ 33)) (min (2 ^ 33) n)

/-- A channel has taken the sample `x` between `f` and `f'` (R22 to R24): the shelf stage takes the channel value, and the high-pass
stage takes the shelf's output. -/
def ChannelFilter.Takes (f : ChannelFilter) (x : Int) (f' : ChannelFilter) : Prop :=
  f.shelf.Takes Config.shelf (256 * x) f'.shelf ∧ f.highPass.Takes Config.highPass f'.shelf.y1 f'.highPass

/-- What the change of `p`'s slot in service to `i` makes of programme `q`, where the gains of `s` are sound (R94, R140): the gain, of
every ACTIVE member of the group in ACTIVE, is limited into the bounds of slot `i`, and a change of it starts a ramp. In MEASURE it
stays, and in OFF the output stage is left alone. -/
def State.switched (s : State) (p : Prog) (i : Slot) (q : Prog) : Programme :=
  let P := s.prog p
  let g := max P.slots[i].gainMin (min P.slots[i].gainMax P.gcur)
  let Q := if q = p then { s.prog q with inService := i } else s.prog q
  if P.mode = .active ∧ Q.mode = .active ∧ s.sameGroup p q = true then
    { Q with
      gcur := g
      out := if g = P.gcur then Q.out
             else { Q.out with ramp := some { start := Q.out.applied, fin := factor g, left := 480 } } }
  else if P.mode = .off ∧ q = p then { Q with gcur := g }
  else Q

/-! ### The requests by their codes (section 10.9) -/

/-- A request's command, from its port, its TARGET and its PAYLOAD. -/
abbrev RequestCommand := Port → Byte → List Byte → Instr

/-- The requests that a READ_ONLY port is refused (R161). -/
def changeCommands : List (Byte × RequestCommand) :=
  [(0x10, .claim), (0x11, .release), (0x20, .setMode), (0x21, .writeProfile), (0x22, .copyProfile), (0x23, .setTrim),
   (0x24, .setSchedule), (0x25, .forceSlot), (0x26, .setCount), (0x27, .restartSegment), (0x28, .pause), (0x29, .resume),
   (0x2A, .resetProgramme), (0x2B, .setLink), (0x30, .loadScanTable), (0x31, .setScanPeriod), (0x32, .configCue),
   (0x33, .dropCueEntries), (0x34, .resetDevice)]

/-- The reads and the notice requests, which are served on ports of both classes (R161). -/
def openCommands : List (Byte × RequestCommand) :=
  [(0x01, .readProgramme), (0x02, .readProfile), (0x03, .readHistogram), (0x04, .readCueLog), (0x05, .readDevice),
   (0x06, .readNotices), (0x40, .setNoticeMask), (0x41, .setNoticeMode), (0x42, .ackNotices)]

/-- A request of a fixed payload size, and the number of things its TARGET names, `none` where it names none. -/
structure Form where
  code : Byte
  command : RequestCommand
  size : Nat
  targets : Option Nat

/-- The requests of fixed payload size (section 10.9). -/
def fixedForms : List Form :=
  [⟨0x01, .readProgramme, 0, some 8⟩, ⟨0x02, .readProfile, 1, some 8⟩, ⟨0x03, .readHistogram, 3, some 8⟩,
   ⟨0x04, .readCueLog, 0, none⟩, ⟨0x05, .readDevice, 0, none⟩, ⟨0x06, .readNotices, 0, none⟩, ⟨0x10, .claim, 0, some 9⟩,
   ⟨0x11, .release, 0, some 9⟩, ⟨0x20, .setMode, 1, some 8⟩, ⟨0x22, .copyProfile, 3, some 8⟩, ⟨0x23, .setTrim, 2, some 8⟩,
   ⟨0x24, .setSchedule, 13, some 8⟩, ⟨0x25, .forceSlot, 1, some 8⟩, ⟨0x26, .setCount, 4, some 8⟩,
   ⟨0x27, .restartSegment, 0, some 8⟩, ⟨0x28, .pause, 0, some 8⟩, ⟨0x29, .resume, 0, some 8⟩,
   ⟨0x2A, .resetProgramme, 0, some 8⟩, ⟨0x2B, .setLink, 1, some 7⟩, ⟨0x31, .setScanPeriod, 2, none⟩,
   ⟨0x32, .configCue, 7, some 4⟩, ⟨0x33, .dropCueEntries, 1, none⟩, ⟨0x34, .resetDevice, 0, none⟩,
   ⟨0x40, .setNoticeMask, 2, none⟩, ⟨0x41, .setNoticeMode, 2, none⟩, ⟨0x42, .ackNotices, 2, none⟩]

/-- A request that needs a claim, and the payloads that pass its check of form for every target in range. -/
structure Claimed where
  code : Byte
  command : RequestCommand
  wellFormed : List Byte → Bool

/-- The requests that need the claim on the programme their TARGET names, but for the two that write profiles (R162). -/
def programmeForms : List Claimed :=
  [⟨0x20, .setMode, fun d => d.length = 1 && (byteAt d 0).toNat ≤ 2⟩, ⟨0x23, .setTrim, fun d => d.length = 2⟩,
   ⟨0x24, .setSchedule, fun d => d.length = 13 && (byteAt d 12).toNat ≤ 1⟩,
   ⟨0x25, .forceSlot, fun d => d.length = 1 && (byteAt d 0).toNat ≤ 1⟩, ⟨0x26, .setCount, fun d => d.length = 4⟩,
   ⟨0x27, .restartSegment, fun d => d = []⟩, ⟨0x28, .pause, fun d => d = []⟩, ⟨0x29, .resume, fun d => d = []⟩,
   ⟨0x2A, .resetProgramme, fun d => d = []⟩]

/-- A LOAD_SCAN_TABLE payload that is well-formed (R185). -/
def scanPayloadOk (d : List Byte) : Bool :=
  d.length ≤ 48 && 2 ≤ d.length && (byteAt d 0).toNat + 1 = d.length && d.tail.all fun b => b.toNat < 8 || b = 0xFF

/-- A CONFIG_CUE payload that is well-formed (R143). -/
def cuePayloadOk (d : List Byte) : Bool :=
  d.length = 7 && (byteAt d 0).toNat ≤ 1 && (byteAt d 1).toNat < 8 && (byteAt d 2).toNat ≤ 1 && (byteAt d 5).toNat ≤ 3 &&
  (byteAt d 6).toNat ≤ 1

/-- The requests that need the device claim, with the bound on their TARGET (R162). -/
def deviceForms : List (Claimed × Nat) :=
  [(⟨0x30, .loadScanTable, scanPayloadOk⟩, 256), (⟨0x31, .setScanPeriod, fun d => d.length = 2⟩, 256),
   (⟨0x32, .configCue, cuePayloadOk⟩, 4), (⟨0x34, .resetDevice, fun d => d = []⟩, 256)]

/-- The bytes of an item of WRITE_PROFILE (R184). -/
def itemBytes : ProfileItem → List Byte
  | .number f v => count8 f.id :: signed16 v
  | .steering v => 8 :: signed16 v
  | .label chars => 15 :: count8 chars.length :: chars

/-- An item that its bytes can carry and that is not malformed (R122, R184). -/
def itemOk : ProfileItem → Prop
  | .number _ v => -32768 ≤ v ∧ v ≤ 32767
  | .steering v => v = 0 ∨ v = 1
  | .label chars => chars.length ≤ 16 ∧ ∀ b ∈ chars, 0x20 ≤ b.toNat ∧ b.toNat ≤ 0x7E

/-- A request whose payload has its size and is refused with `result` for what it carries, where its TARGET is below `targets`. -/
structure Faulty where
  code : Byte
  command : RequestCommand
  targets : Nat
  result : Result
  faulty : List Byte → Bool

/-- The payload values that are refused (R179, steps 3 and 4): a mode, setting, polarity or action outside its set (R180), a slot or
programme out of range (R125, R129, R138, R143), and the malformed payloads of R44, R75, R184 and R185. -/
def faultyForms : List Faulty :=
  let byte := fun (d : List Byte) (i : Nat) => (byteAt d i).toNat
  [⟨0x02, .readProfile, 8, .badTarget, fun d => d.length = 1 && 2 ≤ byte d 0⟩,
   ⟨0x03, .readHistogram, 8, .badRequest, fun d => d.length = 3 && 291 < byte d 0 + 256 * byte d 1⟩,
   ⟨0x20, .setMode, 8, .badRequest, fun d => d.length = 1 && 3 ≤ byte d 0⟩,
   ⟨0x21, .writeProfile, 256, .badRequest, fun d => d = []⟩,
   ⟨0x21, .writeProfile, 8, .badTarget, fun d => 1 ≤ d.length && 2 ≤ byte d 0⟩,
   ⟨0x21, .writeProfile, 8, .badRequest, fun d => 1 ≤ d.length && byte d 0 ≤ 1 && (profileItems d.tail).isNone⟩,
   ⟨0x22, .copyProfile, 8, .badTarget, fun d => d.length = 3 && (2 ≤ byte d 0 || 8 ≤ byte d 1 || 2 ≤ byte d 2)⟩,
   ⟨0x24, .setSchedule, 8, .badRequest, fun d => d.length = 13 && 2 ≤ byte d 12⟩,
   ⟨0x25, .forceSlot, 8, .badTarget, fun d => d.length = 1 && 2 ≤ byte d 0⟩,
   ⟨0x2B, .setLink, 7, .badRequest, fun d => d.length = 1 && 2 ≤ byte d 0⟩,
   ⟨0x30, .loadScanTable, 256, .badRequest, fun d => !scanPayloadOk d⟩,
   ⟨0x32, .configCue, 4, .badTarget, fun d => d.length = 7 && 8 ≤ byte d 1⟩,
   ⟨0x32, .configCue, 4, .badRequest, fun d =>
     d.length = 7 && byte d 1 < 8 && (2 ≤ byte d 0 || 2 ≤ byte d 2 || 4 ≤ byte d 5 || 2 ≤ byte d 6)⟩]

/-! ### The state after a reset -/

/-- What every programme holds after any reset (R20, R38, R56, R74, R101, R123, R133). -/
def Programme.AfterReset (P : Programme) : Prop :=
  P.mode = .off ∧ P.requestPause = false ∧ P.cuePause = 0 ∧ P.inService = 0 ∧
  (∀ i : Slot, P.slots[i] = Profile.default) ∧
  P.schedule.enabled = false ∧ P.schedule.compareA = 0 ∧ P.schedule.compareB = 0 ∧ P.schedule.increment = 0 ∧
  P.front.filterL = .clear ∧ P.front.filterR = .clear ∧ P.front.sumL = 0 ∧ P.front.sumR = 0 ∧ P.front.frameCount = 0 ∧
  P.front.counter = 0 ∧ P.queue = [] ∧ P.lost = 0 ∧ P.momentary.cells = [] ∧ P.momentary.sum = 0 ∧
  P.shortTerm.cells = [] ∧ P.shortTerm.sum = 0 ∧ P.histogram.n1 = 0 ∧ P.histogram.below = 0 ∧ P.readingM = none ∧
  P.readingS = none ∧ P.readingI = none ∧ P.gcur = 0 ∧ P.gd = none ∧ P.trim = 0 ∧ P.deviation = .normal ∧
  P.faultCount = 0 ∧ P.settleCount = 0 ∧ P.settled = false ∧ P.out.applied = 4194304 ∧ P.out.ramp = none ∧
  P.out.line = List.replicate 48 .zero ∧ P.out.pipeline = List.replicate 2 .zero ∧
  P.out.bypass = List.replicate 50 .zero ∧ P.out.reduction = 0 ∧ P.out.peak = 0 ∧ P.out.clips = 0

/-- What the part holds after any reset, beside the reset record, the hold, the classes and the book of overtaken expiries
(R20, R21, R42, R43, R142, R150, R170, R171, R188, R198, R202). -/
def State.AfterReset (t : State) : Prop :=
  (∀ p, (t.prog p).AfterReset) ∧ (∀ k : LinkFlag, t.links[k] = false) ∧
  t.resetRequest = none ∧ t.monitor = .lost none ∧ t.frameOpen = false ∧ t.tdmOut = none ∧
  t.scan = { reload := 600, count := 600, table := [0, 1, 2, 3, 4, 5, 6, 7].map some, next := 0 } ∧
  (∀ l, (t.cue l).asserted = false ∧ (t.cue l).run = 0 ∧ (t.cue l).config =
    { enabled := false, programme := 0, polarity := .activeHigh, width := 0, action := .nothing, captureRelease := false }) ∧
  t.cueLog = [] ∧ t.gapMark = false ∧ (∀ r, t.holder r = none) ∧
  (∀ p, (t.port p).receive = .idle ∧ (t.port p).serving = none ∧ (t.port p).presence = .present 122880000 ∧
    ∀ k, t.txdLevel p k = true) ∧
  (∀ p, t.notice p = { mask := Source.deviceReset.bit, modes := 0, pending := Source.deviceReset.bit } ∧
    t.attention p = true ∧ t.attentionPin p = false) ∧
  t.conditions = Source.clockLost.bit

/-! ### The invariants -/

/-- A hold leaves every piece of state at its reset value (R200). -/
def State.HeldAtReset (s : State) : Prop := s.held = true → s.AfterReset

/-- A source outside the mask is never pending, event sources are never in the mode set, and the bit of an enabled LEVEL condition
equals the condition (R191, R193). -/
def State.NoticesAgree (s : State) : Prop :=
  ∀ p, let n := s.notice p
    n.pending &&& ~~~n.mask = 0 ∧ n.modes &&& ~~~conditionSources = 0 ∧
    n.pending &&& n.mask &&& n.modes = s.conditions &&& n.mask &&& n.modes

/-- A claim is never held by a READ_ONLY or ABSENT station (R157). -/
def State.ClaimsSound (s : State) : Prop :=
  ∀ r p, s.holder r = some p → (s.port p).access = .full ∧ (s.port p).isAbsent = false

/-- Every field of a slot lies in its range (R121, R122). -/
def Profile.InRange (f : Profile) : Prop :=
  -4000 ≤ f.target ∧ f.target ≤ -1000 ∧ -1200 ≤ f.ceiling ∧ f.ceiling ≤ 0 ∧ -2400 ≤ f.gainMin ∧ f.gainMin ≤ 0 ∧
  0 ≤ f.gainMax ∧ f.gainMax ≤ 1200 ∧ 1 ≤ f.upRate ∧ f.upRate ≤ 200 ∧ 1 ≤ f.downRate ∧ f.downRate ≤ 400 ∧
  0 ≤ f.deadband ∧ f.deadband ≤ 300 ∧ -7000 ≤ f.holdThreshold ∧ f.holdThreshold ≤ -2000 ∧ 100 ≤ f.warnDev ∧
  f.warnDev ≤ 2000 ∧ f.warnDev ≤ f.faultDev ∧ f.faultDev ≤ 3000 ∧ 1 ≤ f.faultVisits ∧ f.faultVisits ≤ 255 ∧
  10 ≤ f.settleTol ∧ f.settleTol ≤ 500 ∧ 0 ≤ f.settleCount ∧ f.settleCount ≤ 255 ∧ 1 ≤ f.release ∧ f.release ≤ 100 ∧
  ∀ label, f.label = some label → label ≠ [] ∧ label.length ≤ 16 ∧ ∀ b ∈ label, 0x20 ≤ b.toNat ∧ b.toNat ≤ 0x7E

/-- Every slot is in range, and every gain lies in its bounds, is 0 in MEASURE, and is one gain through the ACTIVE members of a
group (R81, R82, R85, R86). -/
def State.GainsSound (s : State) : Prop :=
  (∀ p, (∀ i : Slot, (s.prog p).slots[i].InRange) ∧
    (s.prog p).profile.gainMin ≤ (s.prog p).gcur ∧ (s.prog p).gcur ≤ (s.prog p).profile.gainMax ∧
    ((s.prog p).mode = .measure → (s.prog p).gcur = 0) ∧
    (∀ g, (s.prog p).gd = some g → -2400 ≤ g ∧ g ≤ 1200) ∧ -1200 ≤ (s.prog p).trim ∧ (s.prog p).trim ≤ 1200) ∧
  ∀ p q, (s.prog p).mode = .active → (s.prog q).mode = .active → s.sameGroup p q = true →
    (s.prog p).gcur = (s.prog q).gcur

/-- A ring of `cap` places holds at most `cap` energies, and their exact sum (R49, R50). -/
def Ring.Sound (cap : Nat) (r : Ring) : Prop :=
  r.cells.length ≤ cap ∧ r.sum = r.cells.sum ∧ ∀ e ∈ r.cells, e ≤ maxEnergy

/-- What a programme's stores hold lies in its range, and each reading is that of its window (R25, R26, R32, R34, R49 to R51,
R58, R66, R97, R99, R100, R107, R112). -/
def Programme.StoresSound (P : Programme) : Prop :=
  P.front.frameCount ≤ 4800 ∧ P.queue.length ≤ 4 ∧ (∀ x ∈ P.queue, x.energy ≤ maxEnergy) ∧
  P.lost ≤ 65535 ∧ P.momentary.Sound 4 ∧ P.shortTerm.Sound 30 ∧
  P.readingM = (P.momentary.mean 4).map level ∧ P.readingS = (P.shortTerm.mean 30).map level ∧
  (∀ i : Fin 292, P.histogram.bins[i] ≤ 65535) ∧ P.histogram.below ≤ 2 ^ 32 - 1 ∧
  (P.readingI.isSome = true ↔ 1 ≤ P.histogram.n1) ∧ P.faultCount ≤ 255 ∧ P.settleCount ≤ 255 ∧
  (P.mode ≠ .active → P.settled = false ∧ P.settleCount = 0) ∧ P.out.line.length = 48 ∧ P.out.pipeline.length = 2 ∧
  P.out.bypass.length = 50 ∧ P.out.clips ≤ 65535 ∧ ∀ r, P.out.ramp = some r → r.left ≤ 480

/-- The scan engine and the cue log are in range (R39, R43, R150). -/
def State.EngineSound (s : State) : Prop :=
  150 ≤ s.scan.reload ∧ s.scan.reload ≤ 4800 ∧ s.scan.count ≤ 4800 ∧ 1 ≤ s.scan.table.length ∧
  s.scan.table.length ≤ 16 ∧ s.scan.next < s.scan.table.length ∧ s.cueLog.length ≤ 8

/-- A line is asserted under the action PAUSE and names programme `p`. -/
def CueState.pauses (c : CueState) (p : Prog) : Bool :=
  c.asserted && decide (c.config.action = .pause) && decide (c.config.programme = p)

/-- Only an enabled line is asserted, and a programme's cue-pause count is the number of the enabled lines that name it, have the
action PAUSE and are asserted (R144). With four lines it is at most 4 (R16). -/
def State.CuePauseSound (s : State) : Prop :=
  (∀ l, (s.cue l).asserted = true → (s.cue l).config.enabled = true) ∧
  ∀ p, (s.prog p).cuePause = (allLines.countP fun l => (s.cue l).config.enabled && (s.cue l).pauses p) ∧
    (s.prog p).cuePause ≤ 4

end Sys2Proof.Machine
end

