-- ==== Sys2Proof/Certificates/Slice0/Obligations.lean ====
section
/-! DEFINITION. The statements for the provers. -/

open Sys2Proof Sys2Proof.Machine

/-! ### The queue and the control clock -/

/-- A step takes the command at the front of the queue. -/
def Obligations.StepRunsTheFrontCommand : Prop :=
  ∀ (c : Instr) (rest : List Instr) (s : State), s.pending = c :: rest → step s = exec c { s with pending := rest }

/-- No command changes the queue of waiting commands. -/
def Obligations.CommandsLeaveTheQueue : Prop :=
  ∀ (c : Instr) (s t : State), exec c s = .next t → t.pending = s.pending

/-- With no command waiting, what a frame left due is queued, in the order of log entry 5; with nothing due, one cycle of the control
clock passes: the timers run, and those that run out queue their events, each once and nothing else (the model's choice, log entry 3).
Where 1 ms without a sync and 10 ms of running fall in one cycle, the stop comes (log entry 20). No expiry waits in an empty queue, so
none is overtaken (log entry 25). In a reset hold no timer runs (R200). -/
def Obligations.EmptyQueuePassesACycle : Prop :=
  ∀ s : State, s.pending = [] →
    (s.held = true → step s = .next s) ∧
    (s.held = false → s.dueEvents ≠ [] → step s = .next { s with pending := s.dueEvents }) ∧
    (∃ ramps blocks : List Prog, s.dueEvents = ramps.map .rampEnd ++ blocks.map .subblockCompletion ++
        (if s.clockLost = false ∧ s.scan.count = 0 then [.scanTick] else []) ∧
      ramps.Pairwise (· < ·) ∧ blocks.Pairwise (· < ·) ∧
      (∀ p, p ∈ ramps ↔ ∃ r, (s.prog p).out.ramp = some r ∧ r.left = 0) ∧
      ∀ p, p ∈ blocks ↔ 4800 ≤ (s.prog p).front.frameCount) ∧
    (s.held = false → s.dueEvents = [] → ∃ t, step s = .next t ∧
      t = { s with monitor := t.monitor, ports := t.ports, pending := t.pending } ∧
      (∀ n, s.monitor = .present n →
        t.monitor = .present (n - 1) ∧ (.clockLossDeclaration ∈ t.pending ↔ n ≤ 1)) ∧
      (s.monitor = .lost none → t.monitor = .lost none) ∧
      (∀ m, s.monitor = .lost (some m) →
        t.monitor = .lost (some { run := m.run + 1, sinceSync := m.sinceSync + 1 }) ∧
        (.returnMeasurementStop ∈ t.pending ↔ 24576 ≤ m.sinceSync + 1) ∧
        (.clockReturnDeclaration ∈ t.pending ↔ m.sinceSync + 1 < 24576 ∧ 245760 ≤ m.run + 1)) ∧
      (∀ p n, (s.port p).presence = .present n →
        (t.port p).presence = .present (n - 1) ∧ (.stationAbsence p ∈ t.pending ↔ n ≤ 1)) ∧
      (∀ p bytes n, (s.port p).receive = .receiving bytes n →
        (t.port p).receive = .receiving bytes (n - 1) ∧ (.interByteTimeout p ∈ t.pending ↔ n ≤ 1)) ∧
      (∀ p, (t.port p).access = (s.port p).access ∧ (t.port p).serving = (s.port p).serving ∧
        (t.port p).overtaken = false ∧
        ((s.port p).presence = .absent → (t.port p).presence = .absent) ∧
        ((s.port p).receive = .idle → (t.port p).receive = .idle)) ∧
      t.pending.Nodup ∧
      ∀ c ∈ t.pending,
        (c = .clockLossDeclaration ∧ ∃ n, s.monitor = .present n) ∨
        ((c = .returnMeasurementStop ∨ c = .clockReturnDeclaration) ∧ ∃ m, s.monitor = .lost (some m)) ∨
        (∃ p n, c = .stationAbsence p ∧ (s.port p).presence = .present n) ∨
        ∃ p bytes n, c = .interByteTimeout p ∧ (s.port p).receive = .receiving bytes n)

/-- A PRESENT monitor that sees no sync declares the clock lost when its loss timer has run out: `n + 1` idle cycles and the
declaration they queue. The other timers have longer to run. The count of steps is the model's clock (log entry 3). -/
def Obligations.LossTimerLeadsToDeclaration : Prop :=
  ∀ (s : State) (n : Nat), s.pending = [] → s.held = false → s.dueEvents = [] → s.monitor = .present (n + 1) →
    (∀ p, (∀ k, (s.port p).presence = .present k → n + 1 < k) ∧
      (∀ bytes k, (s.port p).receive = .receiving bytes k → n + 1 < k)) →
    ∃ t, run (n + 2) s = .next t ∧ t.monitor = .lost none ∧ t.pending = [] ∧ t.tdmOut = none ∧
      t.conditions &&& Source.clockLost.bit = Source.clockLost.bit

/-! ### Resets -/

/-- POWER_ON: every block takes its reset value, the part is held, the record is POWER_ON and each class is that of its strap. That the
classes are those of the straps while the part is still held is the model's reading (log entry 10), and so is that a reset overtakes
the expiry that waits on a silence timer run out (log entry 25). -/
def Obligations.PowerOnResetsEverything : Prop :=
  ∀ (straps : BitVec 3) (s : State), ∃ t, exec (.powerOn straps) s = .next t ∧ t.AfterReset ∧ t.held = true ∧
    t.record = { kind := .powerOn, station := none } ∧ t.pending = s.pending ∧
    ∀ p : Port, (t.port p).access = (if straps.getLsbD p.val then .readOnly else .full) ∧
      (t.port p).overtaken = (s.port p).passed

/-- PIN_RESET: the same state under a record of kind PIN, with the classes kept. That it changes nothing in a hold is the model's
reading (log entry 11), and so is that it overtakes the expiry that waits on a silence timer run out (log entry 25). -/
def Obligations.PinResetKeepsTheClasses : Prop :=
  ∀ s : State,
    (s.held = false → ∃ t, exec .pinReset s = .next t ∧ t.AfterReset ∧ t.held = true ∧
      t.record = { kind := .pin, station := none } ∧ t.pending = s.pending ∧
      ∀ p : Port, (t.port p).access = (s.port p).access ∧ (t.port p).overtaken = (s.port p).passed) ∧
    (s.held = true → exec .pinReset s = .next s)

/-- RESET_END: the hold ends, the silence timers start from 5.0 s and the monitor watches from LOST. -/
def Obligations.ResetEndStartsTheTimers : Prop :=
  ∀ s : State, s.held = true → ∃ t, exec .resetEnd s = .next t ∧
    t = { s with held := false, monitor := .lost none, ports := t.ports } ∧
    ∀ p, t.port p = { s.port p with presence := .present (5000 * 24576) }

/-- RESPONSE_END clears the serving flag. Where the response is that of a held RESET_DEVICE, the requested reset acts at that instant, as
REQUESTED_RESET does: the classes are kept and the record is REQUEST with its station. That both commands carry the reset out, and that no
hold follows it, is the model's reading (log entry 12), and so is that it overtakes the expiry that waits on a silence timer run out (log
entry 25). While the response is sent, TXD carries its bytes one after another, each as a low start bit, eight data bits from the least
significant on and a high stop bit, and it is high from the end of the response on (R171). -/
def Obligations.ResponseEndsAndRequestedResetActs : Prop :=
  ∀ (s : State) (port : Port) (m : List Byte), s.held = false → (s.port port).serving = some m →
    (∀ j b, m[j]? = some b → s.txdLevel port (10 * j) = false ∧
      (∀ i, i < 8 → s.txdLevel port (10 * j + 1 + i) = b.getLsbD i) ∧ s.txdLevel port (10 * j + 9) = true) ∧
    (∀ k, 10 * m.length ≤ k → s.txdLevel port k = true) ∧
    (s.resetRequest ≠ some port → ∃ t, exec (.responseEnd port) s = .next t ∧ t = { s with ports := t.ports } ∧
      t.port port = { s.port port with serving := none } ∧ (∀ q, q ≠ port → t.port q = s.port q) ∧
      ∀ k, t.txdLevel port k = true) ∧
    (s.resetRequest = some port → ∃ t, exec (.responseEnd port) s = .next t ∧ exec .requestedReset s = .next t ∧
      t.AfterReset ∧ t.held = false ∧ t.record = { kind := .request, station := some port } ∧ t.pending = s.pending ∧
      ∀ p : Port, (t.port p).access = (s.port p).access ∧ (t.port p).overtaken = (s.port p).passed)

/-! ### The audio clock and the audio port -/

/-- FRAME_SYNC and RETURN_MEASUREMENT_STOP on the monitor's states (R4, R6). That the stop changes nothing without a running measurement
is the model's choice (log entry 4), and so is the flag of an open frame (log entry 14). -/
def Obligations.SyncsDriveTheMonitor : Prop :=
  ∀ s : State, s.held = false →
    (∀ n, s.monitor = .present n →
      exec .frameSync s = .next { s with monitor := .present 24576, frameOpen := true } ∧
      exec .returnMeasurementStop s = .next s) ∧
    (s.monitor = .lost none →
      exec .frameSync s = .next { s with monitor := .lost (some { run := 0, sinceSync := 0 }) } ∧
      exec .returnMeasurementStop s = .next s) ∧
    (∀ m, s.monitor = .lost (some m) →
      exec .frameSync s = .next { s with monitor := .lost (some { m with sinceSync := 0 }) } ∧
      exec .returnMeasurementStop s = .next { s with monitor := .lost none })

/-- CLOCK_LOSS_DECLARATION (R4, R5): the monitor is LOST, every partial sub-block is discarded, the counters and all else of every
programme stand, and the output port sends nothing. What a frame left due comes first, as if its events had stood in front (log
entry 5). -/
def Obligations.LossStopsTheAudioSide : Prop :=
  ∀ (s : State) (n : Nat), s.held = false → s.monitor = .present n →
    (s.dueEvents = [] → ∃ t, exec .clockLossDeclaration s = .next t ∧
      t = { s with monitor := .lost none, frameOpen := false, tdmOut := none, progs := t.progs, notices := t.notices } ∧
      (∀ p, t.prog p =
        { s.prog p with front := { (s.prog p).front with sumL := 0, sumR := 0, frameCount := 0 } }) ∧
      s.NoticesFollow t 0) ∧
    (1 ≤ s.scan.reload →
      run (s.dueEvents.length + 1) { s with pending := s.dueEvents ++ [.clockLossDeclaration] } =
        exec .clockLossDeclaration { s with pending := [] })

/-- CLOCK_RETURN_DECLARATION (R6, R7) with a running measurement. -/
def Obligations.ReturnRestartsTheAudioSide : Prop :=
  ∀ (s : State) (m : ReturnMeasurement), s.held = false → s.monitor = .lost (some m) →
    ∃ t, exec .clockReturnDeclaration s = .next t ∧
      t = { s with monitor := .present 24576, progs := t.progs, notices := t.notices,
                   scan := { s.scan with count := s.scan.reload } } ∧
      (∀ p, let P := s.prog p
        t.prog p = { P with
          front := { P.front with filterL := .clear, filterR := .clear, sumL := 0, sumR := 0, frameCount := 0 }
          out := { P.out with
            applied := (P.out.ramp.map (·.fin)).getD P.out.applied
            ramp := none
            line := List.replicate 48 .zero
            pipeline := List.replicate 2 .zero
            bypass := List.replicate 50 .zero
            reduction := 0 } }) ∧
      s.NoticesFollow t 0

/-- INPUT_FRAME (R1 to R3, R9, R22 to R25, R39, R107): each programme's step, its output slots, and the divider's count, through a
filter within 0.031 dB of R23's table (log entry 1). A frame that was not opened by a sync, or that meets a LOST monitor, is not taken
(log entry 14); in OFF the processed branch stands frozen (log entry 17); what the frame before left due comes first, as if its events
had stood in front (log entry 5). -/
def Obligations.FramePassesThrough : Prop :=
  (Config.shelf.Stable ∧ Config.highPass.Stable ∧ Config.shelf.Responds Config.highPass 1000 0 (1 / 2) ∧
    ∀ row ∈ responseTable, Config.shelf.Responds Config.highPass row.1 row.2 (31 / 10)) ∧
  ∀ (s : State) (slots : Vector TdmWord 16), s.held = false →
    (s.takesFrame = true ↔ (∃ n, s.monitor = .present n) ∧ s.frameOpen = true) ∧
    (s.takesFrame = false → exec (.inputFrame slots) s = .next s) ∧
    (s.takesFrame = true → 1 ≤ s.scan.reload →
      run (s.dueEvents.length + 1) { s with pending := s.dueEvents ++ [.inputFrame slots] } =
        exec (.inputFrame slots) { s with pending := [] }) ∧
    (s.takesFrame = true → s.dueEvents = [] → (∀ p, (s.prog p).out.pipeline.length = 2) →
      ∃ t out, exec (.inputFrame slots) s = .next t ∧
        t = { s with frameOpen := false, tdmOut := some out, scan := { s.scan with count := s.scan.count - 1 },
                     progs := t.progs, notices := t.notices } ∧
        (∀ p : Prog, let P := s.prog p
          let x : Pair := { l := sampleOf slots[2 * p.val], r := sampleOf slots[2 * p.val + 1] }
          let c := ceilingValue P.profile.ceiling
          let needs := fun y : Pair => reductionFor c (max y.l.natAbs y.r.natAbs)
          let scaled := fun (k : Nat) (y : Pair) => ({ l := (y.l * k).tdiv 4194304, r := (y.r * k).tdiv 4194304 } : Pair)
          (P.mode = .off →
            t.prog p = { P with out := { P.out with bypass := P.out.bypass.tail ++ [x] } } ∧
            out[2 * p.val] = slotOf (P.out.bypass.headD .zero).l ∧
            out[2 * p.val + 1] = slotOf (P.out.bypass.headD .zero).r) ∧
          (P.mode ≠ .off →
            t.prog p = { P with front := (t.prog p).front, out := (t.prog p).out } ∧
            (let f := (t.prog p).front
             P.front.filterL.Takes x.l f.filterL ∧ P.front.filterR.Takes x.r f.filterR ∧
             f = { P.front with
                filterL := f.filterL, filterR := f.filterR
                sumL := P.front.sumL + f.filterL.highPass.y1.natAbs ^ 2
                sumR := P.front.sumR + f.filterR.highPass.y1.natAbs ^ 2
                frameCount := P.front.frameCount + 1 }) ∧
            (∃ q : Nat, (∀ y ∈ P.out.line, needs y ≤ q) ∧ (q = 0 ∨ ∃ y ∈ P.out.line, needs y = q) ∧
              let d := max (48 * q) (P.out.reduction - P.profile.release.toNat)
              (t.prog p).out =
                { P.out with
                  applied := P.out.advanceRamp.applied
                  ramp := P.out.advanceRamp.ramp
                  line := P.out.line.tail ++ [scaled P.out.advanceRamp.applied x]
                  pipeline := P.out.pipeline.tail ++ [scaled (reducingFactor d) (P.out.line.headD .zero)]
                  bypass := P.out.bypass.tail ++ [x]
                  reduction := d
                  peak := max P.out.peak d
                  clips := if P.willClip then min 65535 (P.out.clips + 1) else P.out.clips }) ∧
            out[2 * p.val] = slotOf (max (-(c : Int)) (min c (P.out.pipeline.headD .zero).l)) ∧
            out[2 * p.val + 1] = slotOf (max (-(c : Int)) (min c (P.out.pipeline.headD .zero).r)))) ∧
        s.NoticesFollow t (Source.outputClipped.bitIf (allProgs.any fun p => (s.prog p).willClip)))

/-- No output sample of a programme in MEASURE or ACTIVE exceeds the ceiling value of its slot in service, whatever came before
(R112). -/
def Obligations.NoSampleAboveTheCeiling : Prop :=
  ∀ (s t : State) (slots out : Vector TdmWord 16) (p : Prog), s.held = false → s.takesFrame = true →
    exec (.inputFrame slots) s = .next t → t.tdmOut = some out → (t.prog p).mode ≠ .off →
    (sampleOf out[2 * p.val]).natAbs ≤ ceilingValue (t.prog p).profile.ceiling ∧
    (sampleOf out[2 * p.val + 1]).natAbs ≤ ceilingValue (t.prog p).profile.ceiling

/-- A programme in OFF sends, fifty frames later, exactly the samples it received, with the low 8 bits of each slot 0 (R2, R3). -/
def Obligations.BypassDelaysFiftyFrames : Prop :=
  ∀ (s : State) (p : Prog) (f : Vector TdmWord 16) (fs : List (Vector TdmWord 16)) (n : Nat), s.held = false →
    s.monitor = .present n → (s.prog p).mode = .off → (s.prog p).out.bypass.length = 50 → fs.length = 50 →
    s.pending = (f :: fs).flatMap (fun x => [.frameSync, .inputFrame x]) →
    ∃ t out, run 102 s = .next t ∧ t.tdmOut = some out ∧ t.pending = [] ∧
      out[2 * p.val] = f[2 * p.val] &&& 0xFFFFFF00 ∧ out[2 * p.val + 1] = f[2 * p.val + 1] &&& 0xFFFFFF00

/-- A ramp is linear in the factor and ends at its end factor after 480 frames, and RAMP_END leaves that factor and no ramp (R105). -/
def Obligations.RampRunsAndEnds : Prop :=
  (∀ (o : OutputStage) (a b k : Nat), o.ramp = some { start := a, fin := b, left := 480 } → 1 ≤ k → k ≤ 480 →
    ((OutputStage.advanceRamp^[k] o).applied : Int) = a + (((b : Int) - a) * k).tdiv 480 ∧
    (k < 480 → (OutputStage.advanceRamp^[k] o).rampDone = false) ∧
    (k = 480 → (OutputStage.advanceRamp^[k] o).applied = b ∧ (OutputStage.advanceRamp^[k] o).rampDone = true)) ∧
  ∀ (s : State) (p : Prog) (a b : Nat), s.held = false →
    (s.prog p).out.ramp = some { start := a, fin := b, left := 0 } →
    ∃ t, exec (.rampEnd p) s = .next t ∧ t = { s with progs := t.progs } ∧
      t.prog p = { s.prog p with out := { (s.prog p).out with applied := b, ramp := none } } ∧
      ∀ q, q ≠ p → t.prog q = s.prog q

/-! ### Sub-blocks, visits and readings -/

/-- SUBBLOCK_COMPLETION (R26, R29 to R31, R33, R34) where the schedule comparator does not match: the energy is the rounded mean
square, the counter advances, and the record is discarded for pause, queued, or lost to a full queue. That a nonzero sum below half of
the unit gives the energy 0, by the formula of R26 against its words on a zero energy, is the model's reading (log entry 21). -/
def Obligations.CompletionForms : Prop :=
  ∀ (s : State) (p : Prog), let P := s.prog p
    let c := P.front.counter + 1
    s.held = false → 4800 ≤ P.front.frameCount →
    (P.schedule.enabled = false ∨ c ≠ P.schedule.compareA ∧ c ≠ P.schedule.compareB) →
    ∃ (t : State) (e : Nat), exec (.subblockCompletion p) s = .next t ∧
      t = { s with progs := t.progs, notices := t.notices } ∧ (∀ q, q ≠ p → t.prog q = s.prog q) ∧
      (e : Int) = min (2 ^ 31 - 1) ⌊((P.front.sumL + P.front.sumR : Nat) : ℚ) / (4800 * 2 ^ 32) + 1 / 2⌋ ∧
      (let front := { P.front with sumL := 0, sumR := 0, frameCount := 0, counter := c }
       (P.paused = true → t.prog p = { P with front := front } ∧ s.NoticesFollow t 0) ∧
       (P.paused = false → P.queue.length < 4 →
         t.prog p = { P with front := front, queue := P.queue ++ [{ energy := e, counter := c }] } ∧
         s.NoticesFollow t 0) ∧
       (P.paused = false → 4 ≤ P.queue.length →
         t.prog p = { P with front := front, lost := min 65535 (P.lost + 1) } ∧
         s.NoticesFollow t Source.subblockLost.bit))

/-- The schedule comparator at a completion (R135): a match of A toggles the slot and advances B, a match of B alone toggles it and
advances A, and otherwise, or where it is disabled, nothing switches. At every one the sub-block is closed and its record admitted as
without a match (R29 to R34); a toggle fires SLOT_SWITCHED and limits the gain as the new bounds say (R94, R140). The energy is that of
R26's formula, also where a nonzero sum rounds to 0 (the model's reading, log entry 21). A ramp that starts after an immediate setting of
R106 and before the next pair is gained starts from the factor just set, which R103 and R104 do not say (the model's choice, log entry
26). -/
def Obligations.ScheduleMatchTogglesTheSlot : Prop :=
  ∀ (s : State) (p : Prog), let P := s.prog p
    let k := P.schedule
    let c := P.front.counter + 1
    s.held = false → 4800 ≤ P.front.frameCount →
    ∃ (t : State) (e : Nat), exec (.subblockCompletion p) s = .next t ∧
      t = { s with progs := t.progs, notices := t.notices } ∧
      (e : Int) = min (2 ^ 31 - 1) ⌊((P.front.sumL + P.front.sumR : Nat) : ℚ) / (4800 * 2 ^ 32) + 1 / 2⌋ ∧
      let lost := P.paused = false ∧ 4 ≤ P.queue.length
      let completed := fun (k' : Schedule) (q : Prog) (Q : Programme) =>
        if q = p then { Q with
          front := { P.front with sumL := 0, sumR := 0, frameCount := 0, counter := c }
          schedule := k'
          queue := if P.paused = false ∧ P.queue.length < 4 then P.queue ++ [{ energy := e, counter := c }] else P.queue
          lost := if lost then min 65535 (P.lost + 1) else P.lost }
        else Q
      let toggles := fun k' : Schedule => ∃ i : Slot, i ≠ P.inService ∧
        (∀ q, t.prog q =
          { completed k' q (s.switched p i q) with gcur := (t.prog q).gcur, out := (t.prog q).out }) ∧
        (s.GainsSound → ∀ q, t.prog q = completed k' q (s.switched p i q)) ∧
        s.NoticesFollow t (Source.slotSwitched.bit ||| Source.subblockLost.bitIf lost)
      (k.enabled = true → c = k.compareA → toggles { k with compareB := k.compareB + k.increment }) ∧
      (k.enabled = true → c ≠ k.compareA → c = k.compareB → toggles { k with compareA := k.compareA + k.increment }) ∧
      (k.enabled = false ∨ c ≠ k.compareA ∧ c ≠ k.compareB →
        (∀ q, t.prog q = completed k q (s.prog q)) ∧ s.NoticesFollow t (Source.subblockLost.bitIf lost))

/-- SCAN_TICK (R39, R46 to R51, R60, R67, R78) where the divider has expired: it reloads, the index advances, an empty visit changes
nothing more, and a visit consumes up to two records, oldest first, into both rings, enters a block for each record that leaves the
momentary ring full, leaves M, S and I as the readings of their stores, and runs the gain law once on what that gives. The last clause
spells out the rings: a push drops the oldest energy of a full ring, the sum stays exact, and a mean is rounded down. -/
def Obligations.TickVisitsTheEntry : Prop :=
  (∀ s : State, s.held = false → s.clockLost = false → s.scan.count = 0 →
    ∃ t, exec .scanTick s = .next t ∧
      t = { s with progs := t.progs, notices := t.notices, scan := t.scan } ∧
      t.scan = { s.scan with count := s.scan.reload,
                             next := if s.scan.next + 1 < s.scan.table.length then s.scan.next + 1 else 0 } ∧
      ((∀ p, s.scan.table[s.scan.next]? = some (some p) → (s.prog p).mode = .off ∨ (s.prog p).queue = []) →
        (∀ q, t.prog q = s.prog q) ∧ s.NoticesFollow t 0) ∧
      (∀ p, s.scan.table[s.scan.next]? = some (some p) → (s.prog p).mode ≠ .off → (s.prog p).queue ≠ [] →
        let P := s.prog p
        let eaten := (P.queue.take 2).map (·.energy)
        let blocks := eaten.inits.tail.filterMap fun es => (es.foldl (Ring.push 4) P.momentary).mean 4
        let h := (blocks.map level).foldl Histogram.enter P.histogram
        (∃ u : State, u = { s with scan := t.scan, progs := u.progs } ∧ (∀ q, q ≠ p → u.prog q = s.prog q) ∧
          u.prog p = { P with
            queue := P.queue.drop 2
            momentary := eaten.foldl (Ring.push 4) P.momentary
            shortTerm := eaten.foldl (Ring.push 30) P.shortTerm
            readingM := ((eaten.foldl (Ring.push 4) P.momentary).mean 4).map level
            readingS := ((eaten.foldl (Ring.push 30) P.shortTerm).mean 30).map level
            histogram := h
            readingI := if ∃ b ∈ blocks, -7000 ≤ level b then h.integrated else P.readingI } ∧
          (∀ q, t.prog q = (u.gainLaw p).prog q) ∧
          s.NoticesFollow t (Source.settledChange.bitIf ((t.prog p).settled ≠ P.settled))) ∧
        (t.prog p).queue = P.queue.drop 2 ∧ (t.prog p).histogram = h ∧
        (t.prog p).momentary = eaten.foldl (Ring.push 4) P.momentary ∧
        (t.prog p).shortTerm = eaten.foldl (Ring.push 30) P.shortTerm ∧
        (t.prog p).readingM = ((t.prog p).momentary.mean 4).map level ∧
        (t.prog p).readingS = ((t.prog p).shortTerm.mean 30).map level ∧
        (t.prog p).front = P.front ∧ (t.prog p).lost = P.lost ∧ (t.prog p).trim = P.trim ∧
        (t.prog p).mode = P.mode ∧ (t.prog p).slots = P.slots ∧ (t.prog p).inService = P.inService ∧
        (t.prog p).schedule = P.schedule ∧
        ∀ q, q ≠ p → t.prog q = { s.prog q with gcur := (t.prog q).gcur, out := (t.prog q).out } ∧
          (s.sameGroup p q = false ∨ (s.prog q).mode ≠ .active → t.prog q = s.prog q))) ∧
  ∀ (cap e : Nat) (r : Ring), 1 ≤ cap → r.Sound cap →
    let r' := r.push cap e
    r'.cells = (if r.cells.length < cap then r.cells else r.cells.tail) ++ [e] ∧ r'.sum = r'.cells.sum ∧
    r'.mean cap = if r'.cells.length < cap then none else some (r'.cells.sum / cap)

/-- The level function (R28): the nearest integer to `1000 log10 (E / 2^30)`, halves toward +∞; -12000 at 0; non-decreasing; and
its ends. -/
def Obligations.LevelRoundsTheLogarithm : Prop :=
  (∀ e : Nat, 1 ≤ e → e ≤ 2 ^ 31 - 1 →
    (level e : ℝ) - 1 / 2 ≤ 1000 * Real.logb 10 (e / 2 ^ 30) ∧
    1000 * Real.logb 10 (e / 2 ^ 30) < (level e : ℝ) + 1 / 2) ∧
  level 0 = -12000 ∧ level 1 = -9031 ∧ level (2 ^ 31 - 1) = 301 ∧
  ∀ a b : Nat, a ≤ b → b ≤ 2 ^ 31 - 1 → level a ≤ level b

/-- The gain factor (R102): the nearest integer to `2^22 * 10^(G/2000)`, which is never half-way between two; its range; and the table's
values. -/
def Obligations.FactorRoundsThePower : Prop :=
  (∀ g : Int, -2400 ≤ g → g ≤ 1200 →
    |(factor g : ℝ) - 2 ^ 22 * (10 : ℝ) ^ ((g : ℝ) / 2000)| < 1 / 2 ∧ 264643 ≤ factor g ∧ factor g ≤ 16697825) ∧
  factor (-2400) = 264643 ∧ factor (-1200) = 1053562 ∧ factor (-140) = 3569932 ∧ factor (-40) = 4005529 ∧
  factor (-20) = 4098830 ∧ factor 0 = 4194304 ∧ factor 600 = 8368737 ∧ factor 1200 = 16697825

/-- The other powers of ten: the ceiling value is the integer part of `2^23 * 10^(ceiling/2000)` and at most `2^23 - 1` (R108), and the
representative energies (R63) and the reducing factors (R111) are nearest integers. For bin 200 the formula of R63 and its table differ by
one; the model follows the formula (log entry 13). -/
def Obligations.CeilingsAndEnergiesAreRounded : Prop :=
  (∀ g : Int, -1200 ≤ g → g ≤ 0 →
    (ceilingValue g : Int) = min 8388607 ⌊2 ^ 23 * (10 : ℝ) ^ ((g : ℝ) / 2000)⌋ ∧ 2107123 ≤ ceilingValue g) ∧
  (∀ i : Fin 292, |(representative i.val : ℝ) - 2 ^ 30 * (10 : ℝ) ^ ((-7000 + 25 * (i.val : ℝ) + 12.5) / 1000)| ≤ 1 / 2) ∧
  ∀ d : Nat, d ≤ 48 * 2401 →
    |(reducingFactor d : ℝ) - 2 ^ 22 * (10 : ℝ) ^ (-((d : ℝ) / 48) / 2000)| ≤ 1 / 2 ∧ reducingFactor d ≤ 4194304

/-- The reduction a magnitude needs (R109): 0 up to the ceiling value, and above it `2000 log10 (m / C)` rounded up, in 1..2401. -/
def Obligations.ReductionRoundsUp : Prop :=
  ∀ c m : Nat, 2107123 ≤ c → c ≤ 8388607 → m ≤ 33395650 →
    (m ≤ c → reductionFor c m = 0) ∧
    (c < m → 1 ≤ reductionFor c m ∧ reductionFor c m ≤ 2401 ∧
      2000 * Real.logb 10 (m / c) ≤ (reductionFor c m : ℝ) ∧ (reductionFor c m : ℝ) < 2000 * Real.logb 10 (m / c) + 1)

/-- A block goes to its bin, with the halving of a full one, or below the gate (R59 to R62). -/
def Obligations.HistogramTakesABlock : Prop :=
  ∀ (h : Histogram) (lm : Int), (∀ i : Fin 292, h.bins[i] ≤ 65535) → lm ≤ 301 →
    (lm < -7000 → (h.enter lm).bins = h.bins ∧ (h.enter lm).below = min (2 ^ 32 - 1) (h.below + 1)) ∧
    (-7000 ≤ lm → ∃ i : Fin 292, (i.val : Int) = min ((lm + 7000) / 25) 291 ∧ (h.enter lm).below = h.below ∧
      (h.bins[i] < 65535 → (h.enter lm).bins[i] = h.bins[i] + 1 ∧
        (∀ j : Fin 292, j ≠ i → (h.enter lm).bins[j] = h.bins[j]) ∧ (h.enter lm).n1 = h.n1 + 1) ∧
      (h.bins[i] = 65535 → (h.enter lm).bins[i] = 32768 ∧
        (∀ j : Fin 292, j ≠ i → (h.enter lm).bins[j] = h.bins[j] / 2) ∧ 1 ≤ (h.enter lm).n1))

/-- The two passes complete once there is a block (R66), and they give I its value (R64, R65). With the block counts and their
representative energies: the gate lies ten LU below the level of the mean and rises to whole bins, at or below the highest non-empty
bin; the second pass has blocks; and I is the level of their mean, in -7000..+300. With no block I is absent. -/
def Obligations.SecondPassAlwaysHasBlocks : Prop :=
  ∀ h : Histogram, h.n1 = ∑ j : Fin 292, h.bins[j] ∧
    (h.n1 = 0 → h.integrated = none) ∧
    (1 ≤ h.n1 →
      let mean1 := (∑ j : Fin 292, h.bins[j] * representative j.val) / h.n1
      ∃ g : Nat, level mean1 - 1000 ≤ -7000 + 25 * (g : Int) ∧
        (∀ g' : Nat, level mean1 - 1000 ≤ -7000 + 25 * (g' : Int) → g ≤ g') ∧ g ≤ 291 ∧
        (∀ top : Fin 292, 1 ≤ h.bins[top] → (∀ j : Fin 292, top < j → h.bins[j] = 0) →
          mean1 ≤ representative top.val ∧ level mean1 < -7000 + 25 * ((top.val : Int) + 1) ∧
          level mean1 - 1000 < -7000 + 25 * (top.val : Int) - 975 ∧ g ≤ top.val) ∧
        let n2 := ∑ j : Fin 292, if g ≤ j.val then h.bins[j] else 0
        let ei := (∑ j : Fin 292, if g ≤ j.val then h.bins[j] * representative j.val else 0) / n2
        1 ≤ n2 ∧
        (∃ low high : Fin 292, g ≤ low.val ∧ 1 ≤ h.bins[low] ∧ g ≤ high.val ∧ 1 ≤ h.bins[high] ∧
          representative low.val ≤ ei ∧ ei ≤ representative high.val) ∧
        h.integrated = some (level ei) ∧ -7000 ≤ level ei ∧ level ei ≤ 300)

/-! ### The gain law -/

/-- A non-hold run of a programme that is the only ACTIVE member of its group (R81, R83, R85, R104): Gd, the step, its bounds and the
ramp. A ramp that starts after an immediate setting of R106 and before the next pair is gained starts from the factor just set, which R103
and R104 do not say (the model's choice, log entry 26). -/
def Obligations.LoneProgrammeSteps : Prop :=
  ∀ (s : State) (p : Prog) (r : Int), let P := s.prog p
    let f := P.profile
    let d := max f.gainMin (min f.gainMax (f.target - r + P.trim))
    P.mode = .active → P.nonHold = some r → s.activeGroup p = [p] → f.InRange → f.gainMin ≤ P.gcur → P.gcur ≤ f.gainMax →
    let Q := (s.gainLaw p).prog p
    Q.gd = some d ∧
    (-f.deadband ≤ d - P.gcur → d - P.gcur ≤ f.deadband → Q.gcur = P.gcur ∧ Q.out = P.out) ∧
    (f.deadband < d - P.gcur → Q.gcur = P.gcur + min (d - P.gcur) f.upRate) ∧
    (d - P.gcur < -f.deadband → Q.gcur = P.gcur - min (P.gcur - d) f.downRate) ∧
    f.gainMin ≤ Q.gcur ∧ Q.gcur ≤ f.gainMax ∧
    (Q.gcur ≠ P.gcur →
      Q.out = { P.out with ramp := some { start := P.out.applied, fin := factor Q.gcur, left := 480 } }) ∧
    ∀ q, q ≠ p → (s.gainLaw p).prog q = s.prog q

/-- A head's non-hold run moves every ACTIVE member of its group to one gain, toward the lowest Gd present limited into the group's
intersection, and each member whose gain changes starts a ramp of 480 frames from its factor in force; nothing else of another programme
changes. A member that is not head moves no gain and starts no ramp, and a hold visit changes nothing (R80, R85, R91, R92, R104). A ramp
that starts after an immediate setting of R106 and before the next pair is gained starts from the factor just set, which R103 and R104 do
not say (the model's choice, log entry 26). -/
def Obligations.HeadMovesTheGroup : Prop :=
  ∀ (s : State) (p : Prog), (s.prog p).mode = .active →
    let t := s.gainLaw p
    ((s.prog p).nonHold = none → t = s) ∧
    (∀ r, (s.prog p).nonHold = some r → s.head p ≠ some p →
      (t.prog p).gcur = (s.prog p).gcur ∧ (t.prog p).out = (s.prog p).out ∧ ∀ q, q ≠ p → t.prog q = s.prog q) ∧
    (∀ r, (s.prog p).nonHold = some r → s.head p = some p →
      ∃ low : Int,
        (low = (s.prog p).desiredGain r ∨ ∃ q ∈ s.activeGroup p, q ≠ p ∧ (s.prog q).gd = some low) ∧
        low ≤ (s.prog p).desiredGain r ∧
        (∀ q ∈ s.activeGroup p, q ≠ p → ∀ g, (s.prog q).gd = some g → low ≤ g) ∧
        (∀ q ∈ s.activeGroup p, (t.prog q).gcur =
            stepToward (s.prog p).profile (s.prog p).gcur (max (s.groupMin p) (min (s.groupMax p) low)) ∧
          (t.prog q).out =
            if (t.prog q).gcur = (s.prog q).gcur then (s.prog q).out
            else { (s.prog q).out with
              ramp := some { start := (s.prog q).out.applied, fin := factor (t.prog q).gcur, left := 480 } }) ∧
        (∀ q, q ≠ p → t.prog q = { s.prog q with gcur := (t.prog q).gcur, out := (t.prog q).out }) ∧
        ∀ q, q ∉ s.activeGroup p → t.prog q = s.prog q)

/-- One run of the gain law, and its supervision. The steering reading and the hold classification (R79, R80); a hold visit changes
nothing; a non-hold visit stores Gd and, where S is present, updates the deviation state, and in ACTIVE the settle state, by the size of
T - (S + Gcur), Gcur being that after the step and 0 in MEASURE; in MEASURE no gain moves (R78, R81, R84, R96). Runs of computed
deviations (R97, R99): FAULT comes at the fault_visits-th consecutive one above fault_dev, one at most warn_dev clears the state, and the
settled flag sets at the (settle_count + 1)-th consecutive one within settle_tol. -/
def Obligations.SupervisionCountsVisits : Prop :=
  (∀ (P : Programme) (r : Int), P.nonHold = some r ↔
    (P.profile.steering = .short ∧ P.readingS = some r ∨
      P.profile.steering = .integrated ∧ (P.readingI = some r ∨ P.readingI = none ∧ P.readingS = some r)) ∧
    ∃ m, P.readingM = some m ∧ P.profile.holdThreshold ≤ m) ∧
  (∀ (s : State) (p : Prog), let P := s.prog p
    let f := P.profile
    let t := s.gainLaw p
    let Q := t.prog p
    (P.nonHold = none → t = s) ∧
    ∀ r, P.nonHold = some r →
      t = { s with progs := t.progs, notices := t.notices } ∧
      (∀ q, t.notice q = { s.notice q with
        pending := (s.notice q).pending |||
          ((s.notice q).mask &&& Source.settledChange.bitIf (Q.settled ≠ P.settled)) }) ∧
      Q = { P with
        gd := some (max f.gainMin (min f.gainMax (f.target - r + P.trim)))
        gcur := Q.gcur, out := Q.out, deviation := Q.deviation, faultCount := Q.faultCount
        settleCount := Q.settleCount, settled := Q.settled } ∧
      (P.readingS = none → Q.deviation = P.deviation ∧ Q.faultCount = P.faultCount ∧
        Q.settleCount = P.settleCount ∧ Q.settled = P.settled) ∧
      (∀ x, P.readingS = some x →
        let size : Int := |f.target - (x + if P.mode = .active then Q.gcur else 0)|
        Q.deviation = (P.updateDeviation size).deviation ∧ Q.faultCount = (P.updateDeviation size).faultCount ∧
        (P.mode = .active → Q.settleCount = (P.updateSettle size).settleCount ∧ Q.settled = (P.updateSettle size).settled) ∧
        (P.mode ≠ .active → Q.settleCount = P.settleCount ∧ Q.settled = P.settled)) ∧
      (P.mode = .measure → Q.gcur = P.gcur ∧ Q.out = P.out ∧ ∀ q, q ≠ p → t.prog q = s.prog q)) ∧
  ∀ (P : Programme) (size : Int) (n : Nat), P.profile.InRange → 1 ≤ n → n ≤ 255 →
    (P.faultCount = 0 → P.profile.faultDev < size →
      ((Programme.updateDeviation size)^[n] P).faultCount = n ∧
      (((Programme.updateDeviation size)^[n] P).deviation = .fault ↔ P.profile.faultVisits ≤ n) ∧
      (n < P.profile.faultVisits → ((Programme.updateDeviation size)^[n] P).deviation = .warn)) ∧
    (P.profile.warnDev < size → size ≤ P.profile.faultDev →
      P.updateDeviation size = { P with deviation := .warn, faultCount := 0 }) ∧
    (size ≤ P.profile.warnDev → P.updateDeviation size = { P with deviation := .normal, faultCount := 0 }) ∧
    (P.settleCount = 0 → size ≤ P.profile.settleTol →
      ((Programme.updateSettle size)^[n] P).settleCount = n ∧
      (((Programme.updateSettle size)^[n] P).settled = true ↔ P.profile.settleCount + 1 ≤ n)) ∧
    (P.profile.settleTol < size → P.updateSettle size = { P with settleCount := 0, settled := false })

/-! ### The order of checks -/

/-- On a READ_ONLY port the requests that change anything are answered READ_ONLY before anything else is looked at (R161). -/
def Obligations.ReadOnlyPortIsRefused : Prop :=
  ∀ r ∈ changeCommands, ∀ (s : State) (port : Port) (target : Byte) (payload : List Byte), s.Ready port →
    (s.port port).access = .readOnly → payload.length ≤ 48 →
    ∃ t, exec (r.2 port target payload) s = .next t ∧ s.Refuses t port r.1 target .readOnly []

/-- A payload of another size is BAD_REQUEST, and at the right size a TARGET out of range is BAD_TARGET (R179), on ports of both classes
for the reads and the notice requests and on a FULL port for the rest. A code outside the twenty-eight is BAD_REQUEST. A payload that
names a slot or programme out of range is BAD_TARGET and one with a malformed value BAD_REQUEST, form by form; the last clause says which
payloads of WRITE_PROFILE carry well-formed items (R184). -/
def Obligations.MalformedRequestsAreRefused : Prop :=
  (∀ f ∈ fixedForms, ∀ (s : State) (port : Port) (target : Byte) (payload : List Byte), s.Ready port →
    ((s.port port).access = .full ∨ (f.code, f.command) ∈ openCommands) → payload.length ≤ 48 →
    (payload.length ≠ f.size →
      ∃ t, exec (f.command port target payload) s = .next t ∧ s.Refuses t port f.code target .badRequest []) ∧
    (∀ n, f.targets = some n → payload.length = f.size → n ≤ target.toNat →
      ∃ t, exec (f.command port target payload) s = .next t ∧ s.Refuses t port f.code target .badTarget [])) ∧
  (∀ (s : State) (port : Port) (code target : Byte) (payload : List Byte), s.Ready port → code ∉ requestCodes →
    payload.length ≤ 48 →
    ∃ t, exec (.unknownRequest port code target payload) s = .next t ∧ s.Refuses t port code target .badRequest []) ∧
  (∀ f ∈ faultyForms, ∀ (s : State) (port : Port) (target : Byte) (payload : List Byte), s.Ready port →
    ((s.port port).access = .full ∨ (f.code, f.command) ∈ openCommands) → payload.length ≤ 48 →
    target.toNat < f.targets → f.faulty payload = true →
    ∃ t, exec (f.command port target payload) s = .next t ∧ s.Refuses t port f.code target f.result []) ∧
  (∀ (s : State) (port : Port) (target : Byte) (payload : List Byte), s.ReadyFull port → 8 ≤ target.toNat →
    payload ≠ [] → payload.length ≤ 48 →
    ∃ t, exec (.writeProfile port target payload) s = .next t ∧ s.Refuses t port 0x21 target .badTarget []) ∧
  ∀ (bytes : List Byte) (items : List ProfileItem), profileItems bytes = some items ↔
    bytes = items.flatMap itemBytes ∧ (items.map ProfileItem.id).Nodup ∧ ∀ x ∈ items, itemOk x

/-- A well-formed change request whose claim the station does not hold is answered NOT_CLAIMED with the record's holder (R162). -/
def Obligations.UnclaimedRequestsAreRefused : Prop :=
  (∀ f ∈ programmeForms, ∀ (s : State) (port : Port) (target : Byte) (payload : List Byte) (p : Prog), s.ReadyFull port →
    target.toNat = p.val → f.wellFormed payload = true → s.holder (progRecord p) ≠ some port →
    ∃ t, exec (f.command port target payload) s = .next t ∧
      s.Refuses t port f.code target .notClaimed [stationByte (s.holder (progRecord p))]) ∧
  (∀ f ∈ deviceForms, ∀ (s : State) (port : Port) (target : Byte) (payload : List Byte), s.ReadyFull port →
    target.toNat < f.2 → f.1.wellFormed payload = true → s.holder deviceRecord ≠ some port →
    ∃ t, exec (f.1.command port target payload) s = .next t ∧
      s.Refuses t port f.1.code target .notClaimed [stationByte (s.holder deviceRecord)]) ∧
  (∀ (s : State) (port : Port) (target : Byte) (p : Prog) (i : Slot), s.ReadyFull port → target.toNat = p.val →
    s.holder (progRecord p) ≠ some port →
    (∀ rest : List Byte, rest.length ≤ 47 → (profileItems rest).isSome = true →
      ∃ t, exec (.writeProfile port target (count8 i.val :: rest)) s = .next t ∧
        s.Refuses t port 0x21 target .notClaimed [stationByte (s.holder (progRecord p))]) ∧
    ∀ (q : Prog) (j : Slot), (q, j) ≠ (p, i) →
      ∃ t, exec (.copyProfile port target [count8 i.val, count8 q.val, count8 j.val]) s = .next t ∧
        s.Refuses t port 0x22 target .notClaimed [stationByte (s.holder (progRecord p))]) ∧
  ∀ (s : State) (port : Port) (target b : Byte) (k : LinkFlag), s.ReadyFull port → target.toNat = k.val → b.toNat ≤ 1 →
    (s.holder (progRecord k.castSucc) ≠ some port →
      ∃ t, exec (.setLink port target [b]) s = .next t ∧
        s.Refuses t port 0x2B target .notClaimed [stationByte (s.holder (progRecord k.castSucc))]) ∧
    (s.holder (progRecord k.castSucc) = some port → s.holder (progRecord k.succ) ≠ some port →
      ∃ t, exec (.setLink port target [b]) s = .next t ∧
        s.Refuses t port 0x2B target .notClaimed [stationByte (s.holder (progRecord k.succ))])

/-- The slot in service of an ACTIVE programme is protected from both requests that write slots (R124). -/
def Obligations.SlotInServiceIsProtected : Prop :=
  ∀ (s : State) (port : Port) (target : Byte) (p : Prog), s.ReadyHolder port (progRecord p) → target.toNat = p.val →
    (s.prog p).mode = .active →
    (∀ rest : List Byte, rest.length ≤ 47 → (profileItems rest).isSome = true →
      ∃ t, exec (.writeProfile port target (count8 (s.prog p).inService.val :: rest)) s = .next t ∧
        s.Refuses t port 0x21 target .inService []) ∧
    (∀ (q : Prog) (j : Slot), (q, j) ≠ (p, (s.prog p).inService) →
      ∃ t, exec (.copyProfile port target [count8 (s.prog p).inService.val, count8 q.val, count8 j.val]) s = .next t ∧
        s.Refuses t port 0x22 target .inService [])

/-- A message that completes while its port is SERVING is heard and discarded (R165, R176), whatever command tells of it. -/
def Obligations.ServingPortDiscards : Prop :=
  ∀ (s : State) (port : Port) (m : List Byte), s.held = false → (s.port port).serving = some m →
    (∃ t, exec (.servingDiscard port) s = .next t ∧ s.Heard t port (some m) ∧ s.NoticesFollow t 0 ∧
      t = { s with ports := t.ports, notices := t.notices }) ∧
    (∀ r ∈ changeCommands ++ openCommands, ∀ (target : Byte) (payload : List Byte), payload.length ≤ 48 →
      exec (r.2 port target payload) s = exec (.servingDiscard port) s) ∧
    ∀ (code target : Byte) (payload : List Byte), payload.length ≤ 48 →
      exec (.unknownRequest port code target payload) s = exec (.servingDiscard port) s

/-! ### The reads -/

/-- READ_PROGRAMME changes nothing and reports 40 bytes, from which a station reads every field of the status record back (R172, R182,
section 10.9). -/
def Obligations.ReadProgrammeReports : Prop :=
  ∀ (s : State) (port : Port) (target : Byte) (p : Prog), s.Ready port → target.toNat = p.val → let P := s.prog p
    ∃ t bytes, exec (.readProgramme port target []) s = .next t ∧ s.Refuses t port 0x01 target .ok bytes ∧
      bytes.length = 40 ∧
      (byteAt bytes 0).toNat = (match P.mode with | .off => 0 | .measure => 1 | .active => 2) ∧
      byteAt bytes 3 = stationByte (s.holder (progRecord p)) ∧
      (∀ q, s.head p = some q → (byteAt bytes 4).toNat = q.val) ∧ (s.head p = none → byteAt bytes 4 = 0xFF) ∧
      (∀ x ∈ [(5, P.gcur), (9, P.trim)], -32768 ≤ x.2 → x.2 ≤ 32767 → (word16At bytes x.1).toInt = x.2) ∧
      (∀ x ∈ [(7, 3, P.gd), (11, 4, P.readingM), (13, 5, P.readingS), (15, 6, P.readingI)],
        (∀ g, x.2.2 = some g → -32768 ≤ g → g ≤ 32767 →
          (word16At bytes x.1).toInt = g ∧ (byteAt bytes 1).getLsbD x.2.1 = true) ∧
        (x.2.2 = none → word16At bytes x.1 = 0 ∧ (byteAt bytes 1).getLsbD x.2.1 = false)) ∧
      (byteAt bytes 1).getLsbD 0 = decide (P.inService = 1) ∧ (byteAt bytes 1).getLsbD 1 = P.requestPause ∧
      (byteAt bytes 1).getLsbD 2 = P.settled ∧ (byteAt bytes 1).getLsbD 7 = false ∧
      (∀ x ∈ [(17, P.histogram.n1), (21, P.histogram.below)], x.2 < 2 ^ 32 → (word32At bytes x.1).toNat = x.2) ∧
      word32At bytes 25 = P.front.counter ∧
      (∀ x ∈ [(2, P.cuePause), (29, P.queue.length), (33, P.faultCount)], x.2 ≤ 255 → (byteAt bytes x.1).toNat = x.2) ∧
      (byteAt bytes 32).toNat = (match P.deviation with | .normal => 0 | .warn => 1 | .fault => 2) ∧
      (∀ x ∈ [(30, P.lost), (38, P.out.clips)], x.2 ≤ 65535 → (word16At bytes x.1).toNat = x.2) ∧
      (∀ x ∈ [(34, P.out.reduction), (36, P.out.peak)], x.2 ≤ 48 * 65535 →
        48 * (word16At bytes x.1).toNat ≤ x.2 + 47 ∧ x.2 ≤ 48 * (word16At bytes x.1).toNat)

/-- The other five reads change nothing, and a station reads back from their bytes what stands when they are taken: the slot and the
schedule, the bins from the start on, the cue log entry by entry, the device, and its own notice sets (R75, R131, R154, R183, R186, R199,
section 10.9). The conditions that READ_NOTICES carries are those of R190 at their numbers: the clock lost, a programme in WARN or FAULT,
one in FAULT, four cue entries or more, a port ABSENT once this one is heard, and a D above 600 (28800 of its steps of 1/48) in MEASURE or
ACTIVE (R98, R116, R153, R169). That bits 3 to 7 of READ_PROFILE's byte of steering, index and enable are 0 is the model's choice (log
entry 28). -/
def Obligations.ReadsReportTheState : Prop :=
  ∀ (s : State) (port : Port) (target : Byte), s.Ready port →
    (∀ (p : Prog) (i : Slot), target.toNat = p.val → let P := s.prog p
      let f := P.slots[i]
      let label := f.label.getD []
      ∃ t bytes, exec (.readProfile port target [count8 i.val]) s = .next t ∧ s.Refuses t port 0x02 target .ok bytes ∧
        (byteAt bytes 0).toNat = i.val ∧
        (∀ x ∈ [(1, f.target), (3, f.ceiling), (5, f.gainMin), (7, f.gainMax), (9, f.upRate), (11, f.downRate),
            (13, f.deadband), (15, f.holdThreshold), (17, f.warnDev), (19, f.faultDev), (21, f.faultVisits),
            (23, f.settleTol), (25, f.settleCount), (27, f.release)],
          -32768 ≤ x.2 → x.2 ≤ 32767 → (word16At bytes x.1).toInt = x.2) ∧
        (byteAt bytes 29).toNat < 8 ∧ (byteAt bytes 29).getLsbD 0 = decide (f.steering = .integrated) ∧
        (byteAt bytes 29).getLsbD 1 = decide (P.inService = 1) ∧ (byteAt bytes 29).getLsbD 2 = P.schedule.enabled ∧
        (label.length ≤ 16 → (byteAt bytes 30).toNat = label.length) ∧
        bytes.length = 43 + label.length ∧ (bytes.drop 31).take label.length = label ∧
        word32At bytes (31 + label.length) = P.schedule.compareA ∧
        word32At bytes (35 + label.length) = P.schedule.compareB ∧
        word32At bytes (39 + label.length) = P.schedule.increment) ∧
    (∀ (p : Prog) (lo hi n : Byte), target.toNat = p.val → (word16 lo hi).toNat ≤ 291 →
      ∃ (t : State) (k : Nat), 1 ≤ k ∧ k ≤ 16 ∧ (word16 lo hi).toNat + k ≤ 292 ∧
        (1 ≤ n.toNat → n.toNat ≤ 16 → (word16 lo hi).toNat + n.toNat ≤ 292 → k = n.toNat) ∧
        (n.toNat = 0 → k = 1) ∧ (16 < n.toNat ∨ 292 < (word16 lo hi).toNat + n.toNat →
          k = 16 ∨ (word16 lo hi).toNat + k = 292) ∧
        exec (.readHistogram port target [lo, hi, n]) s = .next t ∧
        s.Refuses t port 0x03 target (if k = n.toNat then .ok else .clamped)
          ([lo, hi, count8 k] ++ (((s.prog p).histogram.bins.toList.drop (word16 lo hi).toNat).take k).flatMap count16 ++
            count32 (s.prog p).histogram.n1 ++ count32 (s.prog p).histogram.below)) ∧
    (∃ t bytes, exec (.readCueLog port target []) s = .next t ∧ s.Refuses t port 0x04 target .ok bytes ∧
      bytes.length = 2 + 7 * s.cueLog.length ∧ (s.cueLog.length ≤ 255 → (byteAt bytes 0).toNat = s.cueLog.length) ∧
      (byteAt bytes 1).toNat = s.gapMark.toNat ∧
      ∀ (j : Nat) (e : CueEntry), s.cueLog[j]? = some e →
        let b := byteAt bytes (2 + 7 * j)
        let w := (word16At bytes (7 + 7 * j)).toNat
        b.toNat % 4 = e.line.val ∧ b.getLsbD 2 = decide (e.kind = .released) ∧
        b.toNat / 8 % 4 = (match e.action with | .nothing => 0 | .restart => 1 | .swap => 2 | .pause => 3) ∧
        b.getLsbD 5 = e.gap ∧ b.getLsbD 6 = e.offset.isSome ∧ b.getLsbD 7 = false ∧
        word32At bytes (3 + 7 * j) = e.counter ∧
        (e.offset = none → w = 8192 * e.programme.val) ∧
        ∀ o, e.offset = some o → o ≤ 4799 → w % 8192 = o ∧ w / 8192 = e.programme.val) ∧
    (∃ t bytes, exec (.readDevice port target []) s = .next t ∧ s.Refuses t port 0x05 target .ok bytes ∧
      (byteAt bytes 0).toNat = (match s.record.kind with | .powerOn => 0 | .pin => 1 | .request => 2) ∧
      byteAt bytes 1 = stationByte s.record.station ∧
      (s.scan.table.length ≤ 16 → bytes.length = 39 ∧ (byteAt bytes 2).toNat = s.scan.table.length ∧
        (∀ j, j < 16 → byteAt bytes (3 + j) = (match s.scan.table[j]? with | some (some p) => count8 p.val | _ => 0xFF)) ∧
        (s.scan.next ≤ 255 → (byteAt bytes 19).toNat = s.scan.next) ∧
        (s.scan.reload ≤ 65535 → (word16At bytes 20).toNat = s.scan.reload) ∧
        (byteAt bytes 22).toNat = s.clockLost.toNat ∧
        (∀ k : LinkFlag, (byteAt bytes 23).getLsbD k.val = s.links[k]) ∧ (byteAt bytes 23).getLsbD 7 = false ∧
        (∀ l : CueLine, let c := s.cue l
          let b := byteAt bytes (24 + 3 * l.val)
          b.getLsbD 0 = c.config.enabled ∧ b.getLsbD 1 = decide (c.config.polarity = .activeLow) ∧
          b.getLsbD 2 = c.config.captureRelease ∧ b.getLsbD 3 = c.asserted ∧
          b.toNat / 16 = (match c.config.action with | .nothing => 0 | .restart => 1 | .swap => 2 | .pause => 3) ∧
          (byteAt bytes (25 + 3 * l.val)).toNat = c.config.programme.val ∧
          (c.config.width ≤ 255 → (byteAt bytes (26 + 3 * l.val)).toNat = c.config.width)) ∧
        (byteAt bytes 36).toNat < 8 ∧ (byteAt bytes 37).toNat < 8 ∧
        (∀ p : Port, (byteAt bytes 36).getLsbD p.val = decide (p ≠ port ∧ (s.port p).presence = .absent) ∧
          (byteAt bytes 37).getLsbD p.val = decide ((s.port p).access = .readOnly)) ∧
        byteAt bytes 38 = stationByte (s.holder deviceRecord))) ∧
    (∃ t, exec (.readNotices port target []) s = .next t ∧
      s.Refuses t port 0x06 target .ok
        (bytes16 ((t.notice port).mask.setWidth 16) ++ bytes16 ((t.notice port).modes.setWidth 16) ++
          bytes16 ((t.notice port).pending.setWidth 16) ++ bytes16 (t.conditions.setWidth 16)) ∧
      (∀ n ∈ [0, 4, 5, 7, 8, 9, 12], t.conditions.getLsbD n = false) ∧
      (t.conditions.getLsbD 1 = true ↔ ∀ n, s.monitor ≠ .present n) ∧
      (t.conditions.getLsbD 2 = true ↔ ∃ p, (s.prog p).deviation = .warn ∨ (s.prog p).deviation = .fault) ∧
      (t.conditions.getLsbD 3 = true ↔ ∃ p, (s.prog p).deviation = .fault) ∧
      (t.conditions.getLsbD 6 = true ↔ 4 ≤ s.cueLog.length) ∧
      (t.conditions.getLsbD 10 = true ↔ ∃ q, q ≠ port ∧ (s.port q).presence = .absent) ∧
      (t.conditions.getLsbD 11 = true ↔
        ∃ p, ((s.prog p).mode = .measure ∨ (s.prog p).mode = .active) ∧ 600 * 48 < (s.prog p).out.reduction))

/-! ### The claim table -/

/-- CLAIM (R158): the two checks and the three cases of the record, in every state of the part. -/
def Obligations.ClaimAnswers : Prop :=
  ∀ (s : State) (port : Port) (target : Byte), s.Ready port →
    ((s.port port).access = .readOnly →
      ∃ t, exec (.claim port target []) s = .next t ∧ s.Refuses t port 0x10 target .readOnly []) ∧
    ((s.port port).access = .full → 9 ≤ target.toNat →
      ∃ t, exec (.claim port target []) s = .next t ∧ s.Refuses t port 0x10 target .badTarget []) ∧
    ∀ r : ClaimRecord, (s.port port).access = .full → target.toNat = r.val →
      (s.holder r = none → ∃ t, exec (.claim port target []) s = .next t ∧
        s.Answers t port 0x10 target .granted [count8 port.val] Source.claimChanged.bit ∧
        t = { s with ports := t.ports, notices := t.notices, claims := t.claims } ∧
        t.holder r = some port ∧ ∀ r', r' ≠ r → t.holder r' = s.holder r') ∧
      (s.holder r = some port → ∃ t, exec (.claim port target []) s = .next t ∧
        s.Refuses t port 0x10 target .alreadyYours [count8 port.val]) ∧
      (∀ h, h ≠ port → s.holder r = some h → ∃ t, exec (.claim port target []) s = .next t ∧
        s.Refuses t port 0x10 target .heldElsewhere [count8 h.val])

/-- RELEASE (R159). The 0xFF in the payload of OK, the holder after the request, is the model's reading of section 10.9 (log entry 16). -/
def Obligations.ReleaseAnswers : Prop :=
  ∀ (s : State) (port : Port) (target : Byte), s.Ready port →
    ((s.port port).access = .readOnly →
      ∃ t, exec (.release port target []) s = .next t ∧ s.Refuses t port 0x11 target .readOnly []) ∧
    ((s.port port).access = .full → 9 ≤ target.toNat →
      ∃ t, exec (.release port target []) s = .next t ∧ s.Refuses t port 0x11 target .badTarget []) ∧
    ∀ r : ClaimRecord, (s.port port).access = .full → target.toNat = r.val →
      (s.holder r = some port → ∃ t, exec (.release port target []) s = .next t ∧
        s.Answers t port 0x11 target .ok [0xFF] Source.claimChanged.bit ∧
        t = { s with ports := t.ports, notices := t.notices, claims := t.claims } ∧
        t.holder r = none ∧ ∀ r', r' ≠ r → t.holder r' = s.holder r') ∧
      (s.holder r = none → ∃ t, exec (.release port target []) s = .next t ∧
        s.Refuses t port 0x11 target .notHolder [0xFF]) ∧
      (∀ h, h ≠ port → s.holder r = some h → ∃ t, exec (.release port target []) s = .next t ∧
        s.Refuses t port 0x11 target .notHolder [count8 h.val])

/-- STATION_ABSENCE (R166): the port is ABSENT, every claim of its station is dropped, and all else stands, whatever the timer's count
(the sender's word, log entry 4). That CLAIM_CHANGED fires once for the event, however many claims are dropped, is the model's reading
(log entry 24). Where a message or a reset has overtaken the expiry, it changes nothing and is spent: after any message that is heard
at a timer run out, the port stays PRESENT with its timer restarted and nothing is dropped (R168; how that is read beside R164, and its
book, are the model's, log entry 25). A holder's SET_MODE and a declaration of absence in their two orders (R164): the change is made
and stands and the drop follows, or the claim is dropped first and the request is answered NOT_CLAIMED with the holder absent. -/
def Obligations.AbsenceDropsTheClaims : Prop :=
  ∀ (s : State) (port : Port) (n : Nat), s.held = false → (s.port port).presence = .present n →
    ((s.port port).overtaken = false → ∃ t, exec (.stationAbsence port) s = .next t ∧
      t = { s with ports := t.ports, notices := t.notices, claims := t.claims } ∧
      t.port port = { s.port port with presence := .absent } ∧ (∀ q, q ≠ port → t.port q = s.port q) ∧
      (∀ r, t.holder r = if s.holder r = some port then none else s.holder r) ∧
      ((∃ r, s.holder r = some port) → s.NoticesFollow t Source.claimChanged.bit) ∧
      ((∀ r, s.holder r ≠ some port) → s.NoticesFollow t 0) ∧
      t.conditions &&& Source.stationAbsent.bit = Source.stationAbsent.bit) ∧
    ((s.port port).overtaken = true → ∃ t, exec (.stationAbsence port) s = .next t ∧ t = { s with ports := t.ports } ∧
      t.port port = { s.port port with overtaken := false } ∧ ∀ q, q ≠ port → t.port q = s.port q) ∧
    (n = 0 → ∀ (u : State) (serving : Option (List Byte)), u.held = false → s.Heard u port serving →
      ∃ t, exec (.stationAbsence port) u = .next t ∧ t = { u with ports := t.ports } ∧
        t.port port = { s.port port with
          receive := .idle, presence := .present (5000 * 24576), serving := serving, overtaken := false } ∧
        ∀ q, q ≠ port → t.port q = s.port q) ∧
    (1 ≤ n → (s.port port).overtaken = false → ∀ (target : Byte) (p : Prog) (m : Mode),
      s.ReadyHolder port (progRecord p) → target.toNat = p.val →
      (∃ u t, exec (.setMode port target [count8 m.code]) s = .next u ∧ (u.prog p).mode = m ∧
        exec (.stationAbsence port) u = .next t ∧ t.progs = u.progs ∧ (∀ r, t.holder r ≠ some port) ∧
        (t.port port).presence = .absent) ∧
      ∃ u t, exec (.stationAbsence port) s = .next u ∧ exec (.setMode port target [count8 m.code]) u = .next t ∧
        u.Refuses t port 0x20 target .notClaimed [0xFF] ∧ (t.port port).presence = .present (5000 * 24576))

/-! ### Requests on a programme -/

/-- SET_MODE to the present mode, into OFF, from OFF to MEASURE, and from ACTIVE to MEASURE (R10 to R12, R14). Leaving OFF, the zero fill
and the D of 0 come at once, and while the clock is LOST they wait for the fill of its return (R8); that the factor comes at once in both
is the model's reading (log entry 19), and that the mode changes while LOST change LIMITER_HEAVY is its choice (log entry 27). A ramp that
starts after an immediate setting of R106 and before the next pair is gained starts from the factor just set, which R103 and R104 do not
say (the model's choice, log entry 26). -/
def Obligations.ModeChangesToOffAndMeasure : Prop :=
  ∀ (s : State) (port : Port) (target : Byte) (p : Prog), s.ReadyHolder port (progRecord p) → target.toNat = p.val →
    let P := s.prog p
    (∃ t, exec (.setMode port target [count8 P.mode.code]) s = .next t ∧ s.Refuses t port 0x20 target .ok []) ∧
    (P.mode ≠ .off → ∃ t, exec (.setMode port target [0]) s = .next t ∧
      s.Answers t port 0x20 target .ok [] (Source.settledChange.bitIf P.settled) ∧
      t = { s with ports := t.ports, notices := t.notices, progs := t.progs } ∧ (∀ q, q ≠ p → t.prog q = s.prog q) ∧
      t.prog p = { P with mode := .off, settleCount := 0, settled := false,
                          front := { P.front with sumL := 0, sumR := 0, frameCount := 0 } }) ∧
    (P.mode = .off → ∃ t, exec (.setMode port target [1]) s = .next t ∧
      s.Answers t port 0x20 target .ok [] (Source.settledChange.bitIf P.settled) ∧
      t = { s with ports := t.ports, notices := t.notices, progs := t.progs } ∧ (∀ q, q ≠ p → t.prog q = s.prog q) ∧
      t.prog p = { P with
        mode := .measure, gcur := 0, settleCount := 0, settled := false
        front := { P.front with sumL := 0, sumR := 0, frameCount := 0 }
        out := if s.clockLost then { P.out with applied := 4194304, ramp := none }
               else { P.out with applied := 4194304, ramp := none, line := List.replicate 48 .zero,
                                 pipeline := List.replicate 2 .zero, reduction := 0 } }) ∧
    (P.mode = .active → ∃ t, exec (.setMode port target [1]) s = .next t ∧
      s.Answers t port 0x20 target .ok [] (Source.settledChange.bitIf P.settled) ∧
      t = { s with ports := t.ports, notices := t.notices, progs := t.progs } ∧ (∀ q, q ≠ p → t.prog q = s.prog q) ∧
      t.prog p = { P with
        mode := .measure, gcur := 0, settleCount := 0, settled := false
        out := if P.gcur = 0 then P.out
               else { P.out with ramp := some { start := P.out.applied, fin := 4194304, left := 480 } } })

/-- SET_MODE to ACTIVE (R12, R13, R89) where the gains are sound: alone the gain is 0, and beside another ACTIVE member of the group with
gain `g` every ACTIVE member takes the lower of `g` and 0, but not below the newcomer's gain_min. Leaving OFF the applied factor follows
at once; a member whose gain changes starts a ramp. Leaving OFF, the zero fill and the D of 0 come at once, and while the clock is LOST
they wait for the fill of its return (R8); that the factor comes at once in both is the model's reading (log entry 19), and that the mode
changes while LOST change LIMITER_HEAVY is its choice (log entry 27). A ramp that starts after an immediate setting of R106 and before the
next pair is gained starts from the factor just set, which R103 and R104 do not say (the model's choice, log entry 26). -/
def Obligations.ModeChangesToActive : Prop :=
  ∀ (s : State) (port : Port) (target : Byte) (p : Prog), s.ReadyHolder port (progRecord p) → target.toNat = p.val →
    s.GainsSound → let P := s.prog p
    P.mode ≠ .active → ∃ t, exec (.setMode port target [2]) s = .next t ∧
      s.Answers t port 0x20 target .ok [] (Source.settledChange.bitIf P.settled) ∧
      t = { s with ports := t.ports, notices := t.notices, progs := t.progs } ∧
      (t.prog p).mode = .active ∧ (t.prog p).settled = false ∧ (t.prog p).settleCount = 0 ∧
      ((∀ q, q ≠ p → s.sameGroup p q = true → (s.prog q).mode ≠ .active) → (t.prog p).gcur = 0) ∧
      (∀ q, q ≠ p → s.sameGroup p q = true → (s.prog q).mode = .active →
        (t.prog q).gcur = max P.profile.gainMin (min 0 (s.prog q).gcur) ∧ (t.prog p).gcur = (t.prog q).gcur ∧
        t.prog q = { s.prog q with
          gcur := (t.prog q).gcur
          out := if (t.prog q).gcur = (s.prog q).gcur then (s.prog q).out
                 else { (s.prog q).out with
                   ramp := some { start := (s.prog q).out.applied, fin := factor (t.prog q).gcur, left := 480 } } }) ∧
      (∀ q, q ≠ p → s.sameGroup p q = false ∨ (s.prog q).mode ≠ .active → t.prog q = s.prog q) ∧
      (P.mode = .off → t.prog p = { P with
        mode := .active, gcur := (t.prog p).gcur, settleCount := 0, settled := false
        front := { P.front with sumL := 0, sumR := 0, frameCount := 0 }
        out := if s.clockLost then { P.out with applied := factor (t.prog p).gcur, ramp := none }
               else { P.out with applied := factor (t.prog p).gcur, ramp := none, line := List.replicate 48 .zero,
                                 pipeline := List.replicate 2 .zero, reduction := 0 } }) ∧
      (P.mode = .measure → t.prog p = { P with
        mode := .active, gcur := (t.prog p).gcur, settleCount := 0, settled := false
        out := if (t.prog p).gcur = 0 then P.out
               else { P.out with
                 ramp := some { start := P.out.applied, fin := factor (t.prog p).gcur, left := 480 } } })

/-- WRITE_PROFILE (R125 to R127, R184) of a slot that is not protected: each named field is stored clamped, fault_dev is never left below
warn_dev, the fields not named stand, the clamped set is told, which never counts the steering or the label, and only a gain held in OFF
can move. A fault_dev that is raised to a new warn_dev is counted as clamped whether or not it is named. -/
def Obligations.WriteProfileStores : Prop :=
  ∀ (s : State) (port : Port) (target : Byte) (p : Prog) (i : Slot) (rest : List Byte) (items : List ProfileItem),
    s.ReadyHolder port (progRecord p) → target.toNat = p.val → rest.length ≤ 47 → profileItems rest = some items →
    ¬((s.prog p).mode = .active ∧ (s.prog p).inService = i) → s.GainsSound →
    let P := s.prog p
    let old := P.slots[i]
    ∃ (t : State) (clamped : BitVec 16), exec (.writeProfile port target (count8 i.val :: rest)) s = .next t ∧
      s.Answers t port 0x21 target (if clamped = 0 then .ok else .clamped) (bytes16 clamped) 0 ∧
      t = { s with ports := t.ports, notices := t.notices, progs := t.progs } ∧ (∀ q, q ≠ p → t.prog q = s.prog q) ∧
      let new := (t.prog p).slots[i]
      (∀ j : Slot, j ≠ i → (t.prog p).slots[j] = P.slots[j]) ∧ new.InRange ∧
      (∀ f : Field, f ≠ .faultDev →
        (∀ v, numberIn items f = some v →
          new.get f = max (old.lowest f) (min (highestOf f) v) ∧ clamped.getLsbD f.id = decide (new.get f ≠ v)) ∧
        (numberIn items f = none → new.get f = old.get f ∧ clamped.getLsbD f.id = false)) ∧
      (∀ v, numberIn items .faultDev = some v →
        new.faultDev = max new.warnDev (min 3000 v) ∧
        clamped.getLsbD 10 = decide (new.faultDev ≠ v ∨ old.faultDev < new.warnDev)) ∧
      (numberIn items .faultDev = none →
        new.faultDev = max new.warnDev old.faultDev ∧ clamped.getLsbD 10 = decide (new.faultDev ≠ old.faultDev)) ∧
      (∀ v, steeringIn items = some v → (new.steering = .integrated ↔ v = 1)) ∧
      (steeringIn items = none → new.steering = old.steering) ∧
      clamped.getLsbD 8 = false ∧ clamped.getLsbD 15 = false ∧
      (∀ chars, labelIn items = some chars → new.label = if chars = [] then none else some chars) ∧
      (labelIn items = none → new.label = old.label) ∧
      t.prog p = { P with
        slots := (t.prog p).slots
        gcur := if P.inService = i ∧ P.mode = .off then max new.gainMin (min new.gainMax P.gcur) else P.gcur }

/-- COPY_PROFILE (R129, R127) into a slot that is not protected: the destination takes the source's contents, and only a gain held in OFF
can move. Source and destination the same slot are BAD_TARGET. -/
def Obligations.CopyProfileCopies : Prop :=
  ∀ (s : State) (port : Port) (target : Byte) (p q : Prog) (i j : Slot),
    s.ReadyHolder port (progRecord p) → target.toNat = p.val →
    let P := s.prog p
    let bytes : List Byte := [count8 i.val, count8 q.val, count8 j.val]
    ((p, i) = (q, j) →
      ∃ t, exec (.copyProfile port target bytes) s = .next t ∧ s.Refuses t port 0x22 target .badTarget []) ∧
    ((p, i) ≠ (q, j) → ¬(P.mode = .active ∧ P.inService = i) → s.GainsSound →
      ∃ t, exec (.copyProfile port target bytes) s = .next t ∧ s.Answers t port 0x22 target .ok [] 0 ∧
        t = { s with ports := t.ports, notices := t.notices, progs := t.progs } ∧
        (∀ q', q' ≠ p → t.prog q' = s.prog q') ∧ (t.prog p).slots[i] = (s.prog q).slots[j] ∧
        (∀ k : Slot, k ≠ i → (t.prog p).slots[k] = P.slots[k]) ∧
        t.prog p = { P with
          slots := (t.prog p).slots
          gcur := if P.inService = i ∧ P.mode = .off
                  then max (s.prog q).slots[j].gainMin (min (s.prog q).slots[j].gainMax P.gcur) else P.gcur })

/-- PAUSE, RESUME, SET_COUNT and RESTART_SEGMENT (R16, R68, R69, R139). -/
def Obligations.PlainProgrammeRequests : Prop :=
  ∀ (s : State) (port : Port) (target : Byte) (p : Prog), s.ReadyHolder port (progRecord p) → target.toNat = p.val →
    let P := s.prog p
    let does := fun (c : Instr) (code : Byte) (Q : Programme) => ∃ t, exec c s = .next t ∧
      s.Answers t port code target .ok [] 0 ∧
      t = { s with ports := t.ports, notices := t.notices, progs := t.progs } ∧ (∀ q, q ≠ p → t.prog q = s.prog q) ∧
      t.prog p = Q
    does (.pause port target []) 0x28 { P with requestPause := true } ∧
    does (.resume port target []) 0x29 { P with requestPause := false } ∧
    (∀ b0 b1 b2 b3 : Byte, does (.setCount port target [b0, b1, b2, b3]) 0x26
      { P with front := { P.front with counter := b3 ++ b2 ++ b1 ++ b0 } }) ∧
    does (.restartSegment port target []) 0x27
      { P with histogram := { bins := Vector.replicate 292 0, below := 0 }, readingI := none,
               out := { P.out with peak := 0, clips := 0 } }

/-- SET_TRIM and SET_SCHEDULE (R132, R134, R172). -/
def Obligations.TrimAndScheduleAreSet : Prop :=
  ∀ (s : State) (port : Port) (target : Byte) (p : Prog), s.ReadyHolder port (progRecord p) → target.toNat = p.val →
    let P := s.prog p
    (∀ lo hi : Byte, let v := (hi ++ lo : BitVec 16).toInt
      ∃ t, exec (.setTrim port target [lo, hi]) s = .next t ∧
        s.Answers t port 0x23 target (if -1200 ≤ v ∧ v ≤ 1200 then .ok else .clamped) [] 0 ∧
        t = { s with ports := t.ports, notices := t.notices, progs := t.progs } ∧ (∀ q, q ≠ p → t.prog q = s.prog q) ∧
        t.prog p = { P with trim := max (-1200) (min 1200 v) }) ∧
    (∀ (a b v : BitVec 32) (e : Bool),
      ∃ t, exec (.setSchedule port target (bytes32 a ++ bytes32 b ++ bytes32 v ++ [if e then 1 else 0])) s = .next t ∧
        s.Answers t port 0x24 target (if v.toNat ≤ 2 ^ 31 then .ok else .clamped) [] 0 ∧
        t = { s with ports := t.ports, notices := t.notices, progs := t.progs } ∧ (∀ q, q ≠ p → t.prog q = s.prog q) ∧
        ∃ inc : BitVec 32, inc.toNat = min v.toNat (2 ^ 31) ∧
          t.prog p = { P with schedule := { compareA := a, compareB := b, increment := inc, enabled := e } })

/-- FORCE_SLOT (R94, R138, R140) where the gains are sound: a slot in service already changes nothing; otherwise the index names the other
slot, SLOT_SWITCHED fires, and the gain, of the whole group in ACTIVE, is limited into the new bounds. A ramp that starts after an
immediate setting of R106 and before the next pair is gained starts from the factor just set, which R103 and R104 do not say (the model's
choice, log entry 26). -/
def Obligations.ForceSlotSwitchesAndClamps : Prop :=
  ∀ (s : State) (port : Port) (target : Byte) (p : Prog) (i : Slot), s.ReadyHolder port (progRecord p) →
    target.toNat = p.val → s.GainsSound → let P := s.prog p
    (P.inService = i →
      ∃ t, exec (.forceSlot port target [count8 i.val]) s = .next t ∧ s.Refuses t port 0x25 target .ok []) ∧
    (P.inService ≠ i → ∃ t, exec (.forceSlot port target [count8 i.val]) s = .next t ∧
      s.Answers t port 0x25 target .ok [] Source.slotSwitched.bit ∧
      t = { s with ports := t.ports, notices := t.notices, progs := t.progs } ∧ (t.prog p).inService = i ∧
      let into := fun g : Int => max P.slots[i].gainMin (min P.slots[i].gainMax g)
      (P.mode = .measure → t.prog p = { P with inService := i } ∧ ∀ q, q ≠ p → t.prog q = s.prog q) ∧
      (P.mode = .off → t.prog p = { P with inService := i, gcur := into P.gcur } ∧ ∀ q, q ≠ p → t.prog q = s.prog q) ∧
      (P.mode = .active → ∀ q, let Q := s.prog q
        (s.sameGroup p q = true → Q.mode = .active →
          t.prog q = { Q with
            inService := if q = p then i else Q.inService
            gcur := into P.gcur
            out := if into P.gcur = P.gcur then Q.out
                   else { Q.out with
                     ramp := some { start := Q.out.applied, fin := factor (into P.gcur), left := 480 } } }) ∧
        (s.sameGroup p q = false ∨ Q.mode ≠ .active → t.prog q = Q)))

/-- RESET_PROGRAMME (R18, R19) where the gains are sound. Where the last frame has filled the programme's sub-block, its completion comes
first, as if its event had stood in front (R36; log entry 5). The gain is 0 with a ramp toward unity from the factor in force, unless that
and the end of a running ramp are unity; in OFF the factor is unity at once. Beside another ACTIVE member every ACTIVE member takes the
joining value, and each whose gain changes starts a ramp from its factor in force. That the reset programme's own gain is compared with 0
there, so that a joined gain of 0 leaves it the ramp toward unity, is the model's reading (log entry 18). A ramp that starts after an
immediate setting of R106 and before the next pair is gained starts from the factor just set, which R103 and R104 do not say (the model's
choice, log entry 26). That a reset while the clock is LOST changes LIMITER_HEAVY is the model's choice (log entry 27). -/
def Obligations.ProgrammeResetClears : Prop :=
  ∀ (s : State) (port : Port) (target : Byte) (p : Prog), s.ReadyHolder port (progRecord p) → target.toNat = p.val →
    s.GainsSound → let P := s.prog p
    (4800 ≤ P.front.frameCount →
      run 2 { s with pending := [.subblockCompletion p, .resetProgramme port target []] } =
        exec (.resetProgramme port target []) { s with pending := [] }) ∧
    (P.front.frameCount < 4800 → ∃ t, exec (.resetProgramme port target []) s = .next t ∧
      s.Answers t port 0x2A target .ok [] (Source.settledChange.bitIf P.settled) ∧
      t = { s with ports := t.ports, notices := t.notices, progs := t.progs } ∧
      t.prog p = { P with
        front := { filterL := .clear, filterR := .clear, sumL := 0, sumR := 0, frameCount := 0, counter := 0 }
        queue := [], lost := 0, momentary := { cells := [], sum := 0 }, shortTerm := { cells := [], sum := 0 }
        histogram := { bins := Vector.replicate 292 0, below := 0 }
        readingM := none, readingS := none, readingI := none, gd := none, trim := 0, deviation := .normal
        faultCount := 0, settleCount := 0, settled := false
        gcur := (t.prog p).gcur
        out := { P.out with applied := (t.prog p).out.applied, ramp := (t.prog p).out.ramp,
                            reduction := 0, peak := 0, clips := 0 } } ∧
      (P.mode = .off → (t.prog p).out.applied = 4194304 ∧ (t.prog p).out.ramp = none) ∧
      (P.mode ≠ .off → (t.prog p).out.applied = P.out.applied ∧
        (t.prog p).out.ramp =
          if (t.prog p).gcur ≠ 0 then some { start := P.out.applied, fin := factor (t.prog p).gcur, left := 480 }
          else if P.out.applied = 4194304 ∧ ∀ r, P.out.ramp = some r → r.fin = 4194304 then P.out.ramp
          else some { start := P.out.applied, fin := 4194304, left := 480 }) ∧
      ((∀ q, q ≠ p → s.sameGroup p q = true → (s.prog q).mode = .active → P.mode ≠ .active) →
        (t.prog p).gcur = 0 ∧ ∀ q, q ≠ p → t.prog q = s.prog q) ∧
      (P.mode = .active → ∀ q, q ≠ p → let Q := s.prog q
        (s.sameGroup p q = true → Q.mode = .active →
          (t.prog q).gcur = max P.profile.gainMin (min 0 Q.gcur) ∧ (t.prog p).gcur = (t.prog q).gcur ∧
          t.prog q = { Q with
            gcur := (t.prog q).gcur
            out := if (t.prog q).gcur = Q.gcur then Q.out
                   else { Q.out with
                     ramp := some { start := Q.out.applied, fin := factor (t.prog q).gcur, left := 480 } } }) ∧
        (s.sameGroup p q = false ∨ Q.mode ≠ .active → t.prog q = Q)))

/-- SET_LINK (R88 to R90): a flag that has the setting changes nothing, clearing it moves no gain, and setting it gives the ACTIVE members
of the joined group one gain, the lowest of theirs raised to the highest gain_min if it lies below. A ramp that starts after an immediate
setting of R106 and before the next pair is gained starts from the factor just set, which R103 and R104 do not say (the model's choice,
log entry 26). -/
def Obligations.LinkJoinsAndSplits : Prop :=
  ∀ (s : State) (port : Port) (target : Byte) (k : LinkFlag) (b : Bool), s.ReadyFull port → target.toNat = k.val →
    s.holder (progRecord k.castSucc) = some port → s.holder (progRecord k.succ) = some port → s.GainsSound →
    ∃ t, exec (.setLink port target [if b then 1 else 0]) s = .next t ∧ s.Answers t port 0x2B target .ok [] 0 ∧
      t = { s with ports := t.ports, notices := t.notices, progs := t.progs, links := s.links.set k.val b } ∧
      (b = false ∨ s.links[k] = true → ∀ q, t.prog q = s.prog q) ∧
      (b = true → s.links[k] = false →
        (∀ q, t.sameGroup k.castSucc q = false ∨ (s.prog q).mode ≠ .active → t.prog q = s.prog q) ∧
        ∀ q, t.sameGroup k.castSucc q = true → (s.prog q).mode = .active →
          (∃ low lift : Prog, (s.prog low).mode = .active ∧ t.sameGroup k.castSucc low = true ∧
            (s.prog lift).mode = .active ∧ t.sameGroup k.castSucc lift = true ∧
            (∀ q', t.sameGroup k.castSucc q' = true → (s.prog q').mode = .active →
              (s.prog low).gcur ≤ (s.prog q').gcur ∧
              (s.prog q').profile.gainMin ≤ (s.prog lift).profile.gainMin ∧
              (t.prog q').gcur = max (s.prog lift).profile.gainMin (s.prog low).gcur)) ∧
          t.prog q = { s.prog q with
            gcur := (t.prog q).gcur
            out := if (t.prog q).gcur = (s.prog q).gcur then (s.prog q).out
                   else { (s.prog q).out with
                     ramp := some { start := (s.prog q).out.applied, fin := factor (t.prog q).gcur, left := 480 } } })

/-! ### Requests on the device -/

/-- LOAD_SCAN_TABLE and SET_SCAN_PERIOD (R40, R44, R185), and DROP_CUE_ENTRIES (R155). That a period out of range is answered CLAMPED also
where the reload in force is already the clamped value is the model's choice (log entry 9). -/
def Obligations.ScanAndLogRequests : Prop :=
  (∀ (s : State) (port : Port) (target : Byte) (payload : List Byte), s.ReadyHolder port deviceRecord →
    scanPayloadOk payload = true → ∃ t, exec (.loadScanTable port target payload) s = .next t ∧
      s.Answers t port 0x30 target (if payload.length ≤ 17 then .ok else .clamped) [] 0 ∧
      t = { s with ports := t.ports, notices := t.notices, scan := t.scan } ∧
      t.scan.reload = s.scan.reload ∧ t.scan.count = s.scan.count ∧ t.scan.next = 0 ∧
      t.scan.table.map scanEntryByte = payload.tail.take 16) ∧
  (∀ (s : State) (port : Port) (target lo hi : Byte), s.ReadyHolder port deviceRecord →
    let v := (hi ++ lo : BitVec 16).toNat
    ∃ t, exec (.setScanPeriod port target [lo, hi]) s = .next t ∧
      s.Answers t port 0x31 target (if 150 ≤ v ∧ v ≤ 4800 then .ok else .clamped) [] 0 ∧
      t = { s with ports := t.ports, notices := t.notices,
                   scan := { s.scan with reload := max 150 (min 4800 v) } }) ∧
  (∀ (s : State) (port : Port) (target n : Byte), s.ReadyFull port →
    let gone := min n.toNat s.cueLog.length
    ∃ t, exec (.dropCueEntries port target [n]) s = .next t ∧
      s.Answers t port 0x33 target .ok [count8 gone, count8 (s.cueLog.length - gone)] 0 ∧
      t = { s with ports := t.ports, notices := t.notices, cueLog := s.cueLog.drop gone } ∧
      (t.conditions &&& Source.cueBacklog.bit = Source.cueBacklog.bit ↔ 4 ≤ s.cueLog.length - gone))

/-- CONFIG_CUE (R143, R144): the six fields replace the configuration, the line starts afresh, and an assertion under PAUSE gives back its
count. -/
def Obligations.ConfigCueStartsTheLineAfresh : Prop :=
  ∀ (s : State) (port : Port) (target : Byte) (l : CueLine) (f : CueConfig) (lo hi : Byte),
    s.ReadyHolder port deviceRecord → target.toNat = l.val → f.width = min (hi ++ lo : BitVec 16).toNat 255 →
    ∃ t, exec (.configCue port target
        [if f.enabled then 1 else 0, count8 f.programme.val, if f.polarity = .activeLow then 1 else 0, lo, hi,
         count8 f.action.code, if f.captureRelease then 1 else 0]) s = .next t ∧
      s.Answers t port 0x32 target (if (hi ++ lo : BitVec 16).toNat ≤ 255 then .ok else .clamped) [] 0 ∧
      t = { s with ports := t.ports, notices := t.notices, progs := t.progs, cues := t.cues } ∧
      t.cue l = { config := f, asserted := false, run := 0 } ∧ (∀ k, k ≠ l → t.cue k = s.cue k) ∧
      ∀ p, t.prog p = if (s.cue l).pauses p then { s.prog p with cuePause := (s.prog p).cuePause - 1 } else s.prog p

/-- RESET_DEVICE (R187): answered OK, and the reset waits for the end of the response. -/
def Obligations.ResetDeviceWaitsForItsResponse : Prop :=
  ∀ (s : State) (port : Port) (target : Byte), s.ReadyHolder port deviceRecord →
    ∃ t, exec (.resetDevice port target []) s = .next t ∧ s.Answers t port 0x34 target .ok [] 0 ∧
      t = { s with ports := t.ports, notices := t.notices, resetRequest := some port }

/-! ### Notices -/

/-- SET_NOTICE_MASK, SET_NOTICE_MODE and ACK_NOTICES (R194 to R197), source by source, on both classes. The sets they act on are those
that the station has once it is heard, which can end a STATION_ABSENT; a set with one of bits 13 to 15 is BAD_REQUEST, and no other
station's sets change but by that condition. Each attention pin is low while its station has a source pending and high while it has none
(R198). Each source stands at its number of R190, and the conditions are the six that R190 calls so. -/
def Obligations.NoticeRequestsAct : Prop :=
  (∀ x ∈ [(Source.deviceReset, 0), (.clockLost, 1), (.deviationWarn, 2), (.deviationFault, 3), (.settledChange, 4),
      (.subblockLost, 5), (.cueBacklog, 6), (.cueOverflow, 7), (.slotSwitched, 8), (.claimChanged, 9), (.stationAbsent, 10),
      (.limiterHeavy, 11), (.outputClipped, 12)], ∀ i, x.1.bit.getLsbD i = decide (i = x.2)) ∧
  (∀ i, conditionSources.getLsbD i = decide (i ∈ [1, 2, 3, 6, 10, 11])) ∧
  ∀ (s : State) (port : Port) (target : Byte) (w : BitVec 16), s.Ready port → s.NoticesAgree →
    let does := fun (c : Instr) (code : Byte) (good : SourceSet → Notice → Notice → Prop) =>
      (2 ^ 13 ≤ w.toNat → ∃ t, exec c s = .next t ∧ s.Refuses t port code target .badRequest []) ∧
      (w.toNat < 2 ^ 13 → ∃ t, exec c s = .next t ∧
        s.Heard t port (some (frameMessage
          (code :: target :: Result.ok.code :: bytes16 ((t.notice port).pending.setWidth 16)))) ∧
        t = { s with ports := t.ports, notices := t.notices } ∧
        (∀ q, q ≠ port → t.notice q = (s.notice q).follow s.conditions t.conditions) ∧
        (∀ q, t.attentionPin q = decide ((t.notice q).pending = 0)) ∧
        good t.conditions ((s.notice port).follow s.conditions t.conditions) (t.notice port))
    does (.setNoticeMask port target (bytes16 w)) 0x40 (fun now n m => m.mask = w.setWidth 13 ∧ m.modes = n.modes ∧
      ∀ i : Fin 13, m.pending.getLsbD i.val =
        (w.getLsbD i.val && (if n.mask.getLsbD i.val then n.pending.getLsbD i.val
          else n.modes.getLsbD i.val && now.getLsbD i.val))) ∧
    does (.setNoticeMode port target (bytes16 w)) 0x41 (fun now n m => m.mask = n.mask ∧
      m.modes = w.setWidth 13 &&& conditionSources ∧
      ∀ i : Fin 13, m.pending.getLsbD i.val =
        if m.modes.getLsbD i.val && !n.modes.getLsbD i.val then n.mask.getLsbD i.val && now.getLsbD i.val
        else n.pending.getLsbD i.val) ∧
    does (.ackNotices port target (bytes16 w)) 0x42 (fun _ n m => m.mask = n.mask ∧ m.modes = n.modes ∧
      ∀ i : Fin 13, m.pending.getLsbD i.val =
        (n.pending.getLsbD i.val && !(w.getLsbD i.val && !n.modes.getLsbD i.val)))

/-! ### Cue lines -/

/-- CUE_ASSERTION and CUE_RELEASE (R147, R148, R150 to R152) of a line whose run is wide enough: the flag, the entry or the gap mark with
CUE_OVERFLOW, and the action, SWAP with the consequences of R140. Where the last frame has filled the programme's sub-block, its
completion comes first, as if its event had stood in front (R151; for a release log entry 5). That the two commands are the qualifying
sample of their line is the model's choice (log entry 6). A ramp that starts after an immediate setting of R106 and before the next pair
is gained starts from the factor just set, which R103 and R104 do not say (the model's choice, log entry 26). -/
def Obligations.CueTransitionsAct : Prop :=
  ∀ (s : State) (l : CueLine), let c := s.cue l
    let p := c.config.programme
    let P := s.prog p
    let entry := fun (kind : CueKind) (action : CueAction) => ({
      line := l, kind := kind, programme := p, counter := P.front.counter,
      offset := if s.clockLost then none else some P.front.frameCount, action := action, gap := s.gapMark } : CueEntry)
    let logs := fun (t : State) (e : CueEntry) (fired : SourceSet) =>
      (s.cueLog.length < 8 → t.cueLog = s.cueLog ++ [e] ∧ t.gapMark = false ∧ s.NoticesFollow t fired) ∧
      (8 ≤ s.cueLog.length → t.cueLog = s.cueLog ∧ t.gapMark = true ∧
        s.NoticesFollow t (fired ||| Source.cueOverflow.bit))
    let frame := fun t : State =>
      t = { s with progs := t.progs, cues := t.cues, cueLog := t.cueLog, gapMark := t.gapMark, notices := t.notices } ∧
      ∀ k, k ≠ l → t.cue k = s.cue k
    s.held = false → c.config.enabled = true → 8 * c.config.width ≤ c.run →
    (4800 ≤ P.front.frameCount →
      (c.asserted = false → run 2 { s with pending := [.subblockCompletion p, .cueAssertion l] } =
        exec (.cueAssertion l) { s with pending := [] }) ∧
      (c.asserted = true → run 2 { s with pending := [.subblockCompletion p, .cueRelease l] } =
        exec (.cueRelease l) { s with pending := [] })) ∧
    (P.front.frameCount < 4800 → c.asserted = false → ∃ t, exec (.cueAssertion l) s = .next t ∧ frame t ∧
      t.cue l = { c with asserted := true, run := 0 } ∧
      logs t (entry .asserted c.config.action) (Source.slotSwitched.bitIf (c.config.action = .swap)) ∧
      (c.config.action ≠ .swap → ∀ q, q ≠ p → t.prog q = s.prog q) ∧
      (c.config.action = .nothing → t.prog p = P) ∧
      (c.config.action = .restart → t.prog p = { P with
        histogram := { bins := Vector.replicate 292 0, below := 0 }, readingI := none,
        out := { P.out with peak := 0, clips := 0 } }) ∧
      (c.config.action = .swap → ∃ i : Slot, i ≠ P.inService ∧
        (∀ q, t.prog q = { s.switched p i q with gcur := (t.prog q).gcur, out := (t.prog q).out }) ∧
        (s.GainsSound → ∀ q, t.prog q = s.switched p i q)) ∧
      (c.config.action = .pause → t.prog p = { P with cuePause := P.cuePause + 1 })) ∧
    (P.front.frameCount < 4800 → c.asserted = true → ∃ t, exec (.cueRelease l) s = .next t ∧ frame t ∧
      t.cue l = { c with asserted := false, run := 0 } ∧ (∀ q, q ≠ p → t.prog q = s.prog q) ∧
      t.prog p = (if c.config.action = .pause then { P with cuePause := P.cuePause - 1 } else P) ∧
      (c.config.captureRelease = true →
        logs t (entry .released (if c.config.action = .pause then .pause else .nothing)) 0) ∧
      (c.config.captureRelease = false → t.cueLog = s.cueLog ∧ t.gapMark = s.gapMark ∧ s.NoticesFollow t 0))

/-- Samples (R145, R146). Where no line's run is wide enough, a sampling instant counts each enabled line's run on at the opposite level,
makes it idle at the other, and changes nothing else. A line held at its opposite level, the active one while it is not asserted and the
inactive one while it is, is qualified at the `8w + 1`-th sample of the run and not before; where it is the only line enabled, that
sample does what CUE_ASSERTION or CUE_RELEASE does. -/
def Obligations.SamplesQualifyAfterTheWidth : Prop :=
  let opposite := fun (s : State) (pins : BitVec 4) (l : CueLine) =>
    (pins.getLsbD l.val == decide ((s.cue l).config.polarity = .activeHigh)) != (s.cue l).asserted
  (∀ (s : State) (pins : BitVec 4), s.held = false →
    (∀ l, (s.cue l).config.enabled = true → opposite s pins l = true → (s.cue l).run < 8 * (s.cue l).config.width) →
    ∃ t, exec (.cueLineSample pins) s = .next t ∧ t = { s with cues := t.cues, notices := t.notices } ∧
      s.NoticesFollow t 0 ∧ ∀ l, t.cue l =
        if (s.cue l).config.enabled = false then s.cue l
        else if opposite s pins l then { s.cue l with run := (s.cue l).run + 1 } else { s.cue l with run := 0 }) ∧
  (∀ (s : State) (l : CueLine) (pins : BitVec 4), s.held = false → (s.cue l).config.enabled = true →
    opposite s pins l = true → (s.cue l).run = 0 →
    s.pending = List.replicate (8 * (s.cue l).config.width + 1) (.cueLineSample pins) →
    (∀ k, k ≤ 8 * (s.cue l).config.width → ∃ t, run k s = .next t ∧ t.cue l = { s.cue l with run := k }) ∧
    ∃ t, run (8 * (s.cue l).config.width + 1) s = .next t ∧
      t.cue l = { s.cue l with asserted := !(s.cue l).asserted, run := 0 }) ∧
  ∀ (s : State) (l : CueLine) (pins : BitVec 4), s.held = false → (s.cue l).config.enabled = true →
    (∀ k, k ≠ l → (s.cue k).config.enabled = false) → opposite s pins l = true →
    8 * (s.cue l).config.width ≤ (s.cue l).run →
    exec (.cueLineSample pins) s = exec (if (s.cue l).asserted then .cueRelease l else .cueAssertion l) s

/-! ### The receive half -/

/-- BYTE_RECEIVED, MESSAGE_DISCARD and INTER_BYTE_TIMEOUT (R175): what each byte and each discard does short of a well-formed message. The
timer's 49153 cycles are the model's (log entry 3), and so is that no discard changes an IDLE half (log entry 4; R175 says it of a framing
error). On the line a byte is a falling edge, eight data bits from the least significant on and a high stop bit; a low stop bit is a
framing error, after which no byte comes until the line returns high (R171). -/
def Obligations.ReceiveHalfTakesBytes : Prop :=
  (∀ (port : Port) (b : Byte) (rest : List Bool) (n : Nat),
    let data := [b.getLsbD 0, b.getLsbD 1, b.getLsbD 2, b.getLsbD 3, b.getLsbD 4, b.getLsbD 5, b.getLsbD 6, b.getLsbD 7]
    let after := lineCommands port .idle rest
    lineCommands port .idle (List.replicate n true ++ rest) = after ∧
    lineCommands port .idle (false :: data ++ true :: rest) = .byteReceived port b :: after ∧
    lineCommands port .idle (false :: data ++ false :: (List.replicate n false ++ true :: rest)) =
      .messageDiscard port .framingError :: after) ∧
  ∀ (s : State) (port : Port), s.held = false →
    let becomes := fun (c : Instr) (r : Receiving) => ∃ t, exec c s = .next t ∧ t = { s with ports := t.ports } ∧
      t.port port = { s.port port with receive := r } ∧ ∀ q, q ≠ port → t.port q = s.port q
    ((s.port port).receive = .idle →
      becomes (.byteReceived port 0x5A) (.receiving [] 49153) ∧
      (∀ b, b ≠ 0x5A → exec (.byteReceived port b) s = .next s) ∧
      (∀ cause, exec (.messageDiscard port cause) s = .next s)) ∧
    (∀ n, (s.port port).receive = .receiving [] n → ∀ b : Byte,
      (2 ≤ b.toNat → b.toNat ≤ 50 → becomes (.byteReceived port b) (.receiving [b] 49153)) ∧
      (b.toNat < 2 ∨ 50 < b.toNat → becomes (.byteReceived port b) .idle) ∧
      becomes (.messageDiscard port .badLength) .idle) ∧
    (∀ len rest n, (s.port port).receive = .receiving (len :: rest) n → ∀ b : Byte,
      (rest.length < len.toNat → becomes (.byteReceived port b) (.receiving (len :: rest ++ [b]) 49153)) ∧
      (rest.length = len.toNat → b ≠ crc (len :: rest) → becomes (.byteReceived port b) .idle) ∧
      (rest.length = len.toNat → becomes (.messageDiscard port .badCheck) .idle)) ∧
    (∀ bytes n, (s.port port).receive = .receiving bytes n →
      becomes (.messageDiscard port .framingError) .idle ∧ becomes (.interByteTimeout port) .idle)

/-- DECODE AND ENCODE AGREE, for messages: the bytes that R172 and R174 give a request, received one by one on an IDLE port, come to what
the request's own command does, for each of the twenty-eight and for an unknown code. That UNKNOWN_REQUEST with a known code is that
request is the model's choice (log entry 8). The levels of a message's bytes on the line give the same bytes back (R171). -/
def Obligations.BytesMakeTheRequest : Prop :=
  (∀ (port : Port) (m : List Byte),
    lineCommands port .idle ((frameMessage m).flatMap lineLevels) = (frameMessage m).map (.byteReceived port)) ∧
  (∀ (s : State) (port : Port) (code target : Byte) (payload : List Byte), s.held = false →
    (s.port port).receive = .idle → payload.length ≤ 48 →
    s.pending = (frameMessage (code :: target :: payload)).map (.byteReceived port) →
    run (payload.length + 5) s = exec (.unknownRequest port code target payload) { s with pending := [] }) ∧
  ∀ r ∈ changeCommands ++ openCommands, ∀ (s : State) (port : Port) (target : Byte) (payload : List Byte),
    exec (.unknownRequest port r.1 target payload) s = exec (r.2 port target payload) s

/-! ### What every step keeps -/

/-- The state right after reset meets every invariant. -/
def Obligations.ResetMeetsEveryInvariant : Prop :=
  State.reset.HeldAtReset ∧ State.reset.NoticesAgree ∧ State.reset.ClaimsSound ∧ State.reset.GainsSound ∧
  (∀ p, (State.reset.prog p).StoresSound) ∧ State.reset.EngineSound ∧ State.reset.CuePauseSound ∧ State.reset.AfterReset

/-- A part in a reset hold stands at its reset values, and the notice sets agree with the masks and the conditions (R191, R193, R200). -/
def Obligations.StepKeepsTheNotices : Prop :=
  ∀ s t : State, s.HeldAtReset → s.NoticesAgree → step s = .next t → t.HeldAtReset ∧ t.NoticesAgree

/-- Claims are held by FULL and PRESENT stations only (R157). -/
def Obligations.StepKeepsTheClaims : Prop :=
  ∀ s t : State, s.ClaimsSound → step s = .next t → t.ClaimsSound

/-- Slots stay in range, gains in their bounds, and a group keeps one gain (R85, R86, R121). -/
def Obligations.StepKeepsTheGains : Prop :=
  ∀ s t : State, s.GainsSound → step s = .next t → t.GainsSound

/-- Queues, rings, readings, histograms, counters and delay lines stay sound, and so do the scan engine and the cue log. -/
def Obligations.StepKeepsTheStores : Prop :=
  ∀ s t : State, (∀ p, (s.prog p).StoresSound) → s.EngineSound → step s = .next t →
    (∀ p, (t.prog p).StoresSound) ∧ t.EngineSound

/-- The cue-pause counts count the asserted PAUSE lines (R16, R144). -/
def Obligations.StepKeepsTheCuePauses : Prop :=
  ∀ s t : State, s.CuePauseSound → step s = .next t → t.CuePauseSound
end

