-- ==== Sys2Proof/Laws/State.lean ====
section
/-! SUPPORT. What each named update of the state leaves of each field and view, so that no proof unfolds a record update. -/

namespace Sys2Proof.Machine

/-! ### The views as reads of the fields -/

/-- Two states with equal fields are equal. -/
theorem State.ext_fields {s t : State} (h1 : s.held = t.held) (h2 : s.record = t.record)
    (h3 : s.resetRequest = t.resetRequest) (h4 : s.monitor = t.monitor) (h5 : s.frameOpen = t.frameOpen)
    (h6 : s.tdmOut = t.tdmOut) (h7 : s.progs = t.progs) (h8 : s.links = t.links) (h9 : s.scan = t.scan)
    (h10 : s.cues = t.cues) (h11 : s.cueLog = t.cueLog) (h12 : s.gapMark = t.gapMark) (h13 : s.claims = t.claims)
    (h14 : s.ports = t.ports) (h15 : s.notices = t.notices) (h16 : s.pending = t.pending) : s = t := by
  cases s; cases t; simp_all

theorem State.progs_ext {s t : State} (h : ∀ p, s.prog p = t.prog p) : s.progs = t.progs :=
  Vector.ext fun i hi => h ⟨i, hi⟩

theorem State.ports_ext {s t : State} (h : ∀ p, s.port p = t.port p) : s.ports = t.ports :=
  Vector.ext fun i hi => h ⟨i, hi⟩

theorem State.cues_ext {s t : State} (h : ∀ l, s.cue l = t.cue l) : s.cues = t.cues :=
  Vector.ext fun i hi => h ⟨i, hi⟩

theorem State.claims_ext {s t : State} (h : ∀ r, s.holder r = t.holder r) : s.claims = t.claims :=
  Vector.ext fun i hi => h ⟨i, hi⟩

theorem State.notices_ext {s t : State} (h : ∀ p, s.notice p = t.notice p) : s.notices = t.notices :=
  Vector.ext fun i hi => h ⟨i, hi⟩

/-! ### The view that an update writes -/

@[simp] theorem State.prog_mapProgs (s : State) (f : Prog → Programme → Programme) (p : Prog) :
    (s.mapProgs f).prog p = f p (s.prog p) := by simp [State.mapProgs, State.prog]

@[simp] theorem State.prog_onProg (s : State) (p : Prog) (f : Programme → Programme) (q : Prog) :
    (s.onProg p f).prog q = if q = p then f (s.prog q) else s.prog q := by simp [State.onProg]

@[simp] theorem State.port_onPort (s : State) (p : Port) (f : PortState → PortState) (q : Port) :
    (s.onPort p f).port q = if q = p then f (s.port q) else s.port q := by simp [State.onPort, State.port]

@[simp] theorem State.cue_onCue (s : State) (l : CueLine) (f : CueState → CueState) (k : CueLine) :
    (s.onCue l f).cue k = if k = l then f (s.cue k) else s.cue k := by simp [State.onCue, State.cue]

@[simp] theorem State.holder_setHolder (s : State) (r : ClaimRecord) (h : Option Port) (q : ClaimRecord) :
    (s.setHolder r h).holder q = if q = r then h else s.holder q := by simp [State.setHolder, State.holder]

@[simp] theorem State.notice_mapNotices (s : State) (f : Port → Notice → Notice) (p : Port) :
    (s.mapNotices f).notice p = f p (s.notice p) := by simp [State.mapNotices, State.notice]

@[simp] theorem State.notice_fire (s : State) (x : Source) (p : Port) :
    (s.fire x).notice p =
      { s.notice p with pending := (s.notice p).pending ||| ((s.notice p).mask &&& x.bit) } := by
  simp [State.fire]

@[simp] theorem State.notice_fireIf (s : State) (b : Bool) (x : Source) (p : Port) :
    (s.fireIf b x).notice p =
      { s.notice p with pending := (s.notice p).pending ||| ((s.notice p).mask &&& x.bitIf b) } := by
  cases b <;> simp [State.fireIf, Source.bitIf]

@[simp] theorem State.notice_followFrom (s u : State) (p : Port) :
    (s.followFrom u).notice p = (s.notice p).follow u.conditions s.conditions := by simp [State.followFrom]

/-! ### The fields and views that an update leaves -/
@[simp] theorem State.mapProgs_held (s : State) (f : Prog → Programme → Programme) :
    (s.mapProgs f).held = s.held := rfl
@[simp] theorem State.mapProgs_record (s : State) (f : Prog → Programme → Programme) :
    (s.mapProgs f).record = s.record := rfl
@[simp] theorem State.mapProgs_resetRequest (s : State) (f : Prog → Programme → Programme) :
    (s.mapProgs f).resetRequest = s.resetRequest := rfl
@[simp] theorem State.mapProgs_monitor (s : State) (f : Prog → Programme → Programme) :
    (s.mapProgs f).monitor = s.monitor := rfl
@[simp] theorem State.mapProgs_frameOpen (s : State) (f : Prog → Programme → Programme) :
    (s.mapProgs f).frameOpen = s.frameOpen := rfl
@[simp] theorem State.mapProgs_tdmOut (s : State) (f : Prog → Programme → Programme) :
    (s.mapProgs f).tdmOut = s.tdmOut := rfl
@[simp] theorem State.mapProgs_links (s : State) (f : Prog → Programme → Programme) :
    (s.mapProgs f).links = s.links := rfl
@[simp] theorem State.mapProgs_scan (s : State) (f : Prog → Programme → Programme) :
    (s.mapProgs f).scan = s.scan := rfl
@[simp] theorem State.mapProgs_cues (s : State) (f : Prog → Programme → Programme) :
    (s.mapProgs f).cues = s.cues := rfl
@[simp] theorem State.mapProgs_cueLog (s : State) (f : Prog → Programme → Programme) :
    (s.mapProgs f).cueLog = s.cueLog := rfl
@[simp] theorem State.mapProgs_gapMark (s : State) (f : Prog → Programme → Programme) :
    (s.mapProgs f).gapMark = s.gapMark := rfl
@[simp] theorem State.mapProgs_claims (s : State) (f : Prog → Programme → Programme) :
    (s.mapProgs f).claims = s.claims := rfl
@[simp] theorem State.mapProgs_ports (s : State) (f : Prog → Programme → Programme) :
    (s.mapProgs f).ports = s.ports := rfl
@[simp] theorem State.mapProgs_notices (s : State) (f : Prog → Programme → Programme) :
    (s.mapProgs f).notices = s.notices := rfl
@[simp] theorem State.mapProgs_pending (s : State) (f : Prog → Programme → Programme) :
    (s.mapProgs f).pending = s.pending := rfl
@[simp] theorem State.port_mapProgs (s : State) (f : Prog → Programme → Programme) (q : Port) :
    (s.mapProgs f).port q = s.port q := rfl
@[simp] theorem State.cue_mapProgs (s : State) (f : Prog → Programme → Programme) (q : CueLine) :
    (s.mapProgs f).cue q = s.cue q := rfl
@[simp] theorem State.holder_mapProgs (s : State) (f : Prog → Programme → Programme) (q : ClaimRecord) :
    (s.mapProgs f).holder q = s.holder q := rfl
@[simp] theorem State.notice_mapProgs (s : State) (f : Prog → Programme → Programme) (q : Port) :
    (s.mapProgs f).notice q = s.notice q := rfl
@[simp] theorem State.link_mapProgs (s : State) (f : Prog → Programme → Programme) (q : Nat) :
    (s.mapProgs f).link q = s.link q := rfl
@[simp] theorem State.clockLost_mapProgs (s : State) (f : Prog → Programme → Programme) :
    (s.mapProgs f).clockLost = s.clockLost := rfl

@[simp] theorem State.onProg_held (s : State) (p : Prog) (f : Programme → Programme) :
    (s.onProg p f).held = s.held := rfl
@[simp] theorem State.onProg_record (s : State) (p : Prog) (f : Programme → Programme) :
    (s.onProg p f).record = s.record := rfl
@[simp] theorem State.onProg_resetRequest (s : State) (p : Prog) (f : Programme → Programme) :
    (s.onProg p f).resetRequest = s.resetRequest := rfl
@[simp] theorem State.onProg_monitor (s : State) (p : Prog) (f : Programme → Programme) :
    (s.onProg p f).monitor = s.monitor := rfl
@[simp] theorem State.onProg_frameOpen (s : State) (p : Prog) (f : Programme → Programme) :
    (s.onProg p f).frameOpen = s.frameOpen := rfl
@[simp] theorem State.onProg_tdmOut (s : State) (p : Prog) (f : Programme → Programme) :
    (s.onProg p f).tdmOut = s.tdmOut := rfl
@[simp] theorem State.onProg_links (s : State) (p : Prog) (f : Programme → Programme) :
    (s.onProg p f).links = s.links := rfl
@[simp] theorem State.onProg_scan (s : State) (p : Prog) (f : Programme → Programme) :
    (s.onProg p f).scan = s.scan := rfl
@[simp] theorem State.onProg_cues (s : State) (p : Prog) (f : Programme → Programme) :
    (s.onProg p f).cues = s.cues := rfl
@[simp] theorem State.onProg_cueLog (s : State) (p : Prog) (f : Programme → Programme) :
    (s.onProg p f).cueLog = s.cueLog := rfl
@[simp] theorem State.onProg_gapMark (s : State) (p : Prog) (f : Programme → Programme) :
    (s.onProg p f).gapMark = s.gapMark := rfl
@[simp] theorem State.onProg_claims (s : State) (p : Prog) (f : Programme → Programme) :
    (s.onProg p f).claims = s.claims := rfl
@[simp] theorem State.onProg_ports (s : State) (p : Prog) (f : Programme → Programme) :
    (s.onProg p f).ports = s.ports := rfl
@[simp] theorem State.onProg_notices (s : State) (p : Prog) (f : Programme → Programme) :
    (s.onProg p f).notices = s.notices := rfl
@[simp] theorem State.onProg_pending (s : State) (p : Prog) (f : Programme → Programme) :
    (s.onProg p f).pending = s.pending := rfl
@[simp] theorem State.port_onProg (s : State) (p : Prog) (f : Programme → Programme) (q : Port) :
    (s.onProg p f).port q = s.port q := rfl
@[simp] theorem State.cue_onProg (s : State) (p : Prog) (f : Programme → Programme) (q : CueLine) :
    (s.onProg p f).cue q = s.cue q := rfl
@[simp] theorem State.holder_onProg (s : State) (p : Prog) (f : Programme → Programme) (q : ClaimRecord) :
    (s.onProg p f).holder q = s.holder q := rfl
@[simp] theorem State.notice_onProg (s : State) (p : Prog) (f : Programme → Programme) (q : Port) :
    (s.onProg p f).notice q = s.notice q := rfl
@[simp] theorem State.link_onProg (s : State) (p : Prog) (f : Programme → Programme) (q : Nat) :
    (s.onProg p f).link q = s.link q := rfl
@[simp] theorem State.clockLost_onProg (s : State) (p : Prog) (f : Programme → Programme) :
    (s.onProg p f).clockLost = s.clockLost := rfl

@[simp] theorem State.onPort_held (s : State) (p : Port) (f : PortState → PortState) :
    (s.onPort p f).held = s.held := rfl
@[simp] theorem State.onPort_record (s : State) (p : Port) (f : PortState → PortState) :
    (s.onPort p f).record = s.record := rfl
@[simp] theorem State.onPort_resetRequest (s : State) (p : Port) (f : PortState → PortState) :
    (s.onPort p f).resetRequest = s.resetRequest := rfl
@[simp] theorem State.onPort_monitor (s : State) (p : Port) (f : PortState → PortState) :
    (s.onPort p f).monitor = s.monitor := rfl
@[simp] theorem State.onPort_frameOpen (s : State) (p : Port) (f : PortState → PortState) :
    (s.onPort p f).frameOpen = s.frameOpen := rfl
@[simp] theorem State.onPort_tdmOut (s : State) (p : Port) (f : PortState → PortState) :
    (s.onPort p f).tdmOut = s.tdmOut := rfl
@[simp] theorem State.onPort_progs (s : State) (p : Port) (f : PortState → PortState) :
    (s.onPort p f).progs = s.progs := rfl
@[simp] theorem State.onPort_links (s : State) (p : Port) (f : PortState → PortState) :
    (s.onPort p f).links = s.links := rfl
@[simp] theorem State.onPort_scan (s : State) (p : Port) (f : PortState → PortState) :
    (s.onPort p f).scan = s.scan := rfl
@[simp] theorem State.onPort_cues (s : State) (p : Port) (f : PortState → PortState) :
    (s.onPort p f).cues = s.cues := rfl
@[simp] theorem State.onPort_cueLog (s : State) (p : Port) (f : PortState → PortState) :
    (s.onPort p f).cueLog = s.cueLog := rfl
@[simp] theorem State.onPort_gapMark (s : State) (p : Port) (f : PortState → PortState) :
    (s.onPort p f).gapMark = s.gapMark := rfl
@[simp] theorem State.onPort_claims (s : State) (p : Port) (f : PortState → PortState) :
    (s.onPort p f).claims = s.claims := rfl
@[simp] theorem State.onPort_notices (s : State) (p : Port) (f : PortState → PortState) :
    (s.onPort p f).notices = s.notices := rfl
@[simp] theorem State.onPort_pending (s : State) (p : Port) (f : PortState → PortState) :
    (s.onPort p f).pending = s.pending := rfl
@[simp] theorem State.prog_onPort (s : State) (p : Port) (f : PortState → PortState) (q : Prog) :
    (s.onPort p f).prog q = s.prog q := rfl
@[simp] theorem State.cue_onPort (s : State) (p : Port) (f : PortState → PortState) (q : CueLine) :
    (s.onPort p f).cue q = s.cue q := rfl
@[simp] theorem State.holder_onPort (s : State) (p : Port) (f : PortState → PortState) (q : ClaimRecord) :
    (s.onPort p f).holder q = s.holder q := rfl
@[simp] theorem State.notice_onPort (s : State) (p : Port) (f : PortState → PortState) (q : Port) :
    (s.onPort p f).notice q = s.notice q := rfl
@[simp] theorem State.link_onPort (s : State) (p : Port) (f : PortState → PortState) (q : Nat) :
    (s.onPort p f).link q = s.link q := rfl
@[simp] theorem State.clockLost_onPort (s : State) (p : Port) (f : PortState → PortState) :
    (s.onPort p f).clockLost = s.clockLost := rfl

@[simp] theorem State.onCue_held (s : State) (l : CueLine) (f : CueState → CueState) :
    (s.onCue l f).held = s.held := rfl
@[simp] theorem State.onCue_record (s : State) (l : CueLine) (f : CueState → CueState) :
    (s.onCue l f).record = s.record := rfl
@[simp] theorem State.onCue_resetRequest (s : State) (l : CueLine) (f : CueState → CueState) :
    (s.onCue l f).resetRequest = s.resetRequest := rfl
@[simp] theorem State.onCue_monitor (s : State) (l : CueLine) (f : CueState → CueState) :
    (s.onCue l f).monitor = s.monitor := rfl
@[simp] theorem State.onCue_frameOpen (s : State) (l : CueLine) (f : CueState → CueState) :
    (s.onCue l f).frameOpen = s.frameOpen := rfl
@[simp] theorem State.onCue_tdmOut (s : State) (l : CueLine) (f : CueState → CueState) :
    (s.onCue l f).tdmOut = s.tdmOut := rfl
@[simp] theorem State.onCue_progs (s : State) (l : CueLine) (f : CueState → CueState) :
    (s.onCue l f).progs = s.progs := rfl
@[simp] theorem State.onCue_links (s : State) (l : CueLine) (f : CueState → CueState) :
    (s.onCue l f).links = s.links := rfl
@[simp] theorem State.onCue_scan (s : State) (l : CueLine) (f : CueState → CueState) :
    (s.onCue l f).scan = s.scan := rfl
@[simp] theorem State.onCue_cueLog (s : State) (l : CueLine) (f : CueState → CueState) :
    (s.onCue l f).cueLog = s.cueLog := rfl
@[simp] theorem State.onCue_gapMark (s : State) (l : CueLine) (f : CueState → CueState) :
    (s.onCue l f).gapMark = s.gapMark := rfl
@[simp] theorem State.onCue_claims (s : State) (l : CueLine) (f : CueState → CueState) :
    (s.onCue l f).claims = s.claims := rfl
@[simp] theorem State.onCue_ports (s : State) (l : CueLine) (f : CueState → CueState) :
    (s.onCue l f).ports = s.ports := rfl
@[simp] theorem State.onCue_notices (s : State) (l : CueLine) (f : CueState → CueState) :
    (s.onCue l f).notices = s.notices := rfl
@[simp] theorem State.onCue_pending (s : State) (l : CueLine) (f : CueState → CueState) :
    (s.onCue l f).pending = s.pending := rfl
@[simp] theorem State.prog_onCue (s : State) (l : CueLine) (f : CueState → CueState) (q : Prog) :
    (s.onCue l f).prog q = s.prog q := rfl
@[simp] theorem State.port_onCue (s : State) (l : CueLine) (f : CueState → CueState) (q : Port) :
    (s.onCue l f).port q = s.port q := rfl
@[simp] theorem State.holder_onCue (s : State) (l : CueLine) (f : CueState → CueState) (q : ClaimRecord) :
    (s.onCue l f).holder q = s.holder q := rfl
@[simp] theorem State.notice_onCue (s : State) (l : CueLine) (f : CueState → CueState) (q : Port) :
    (s.onCue l f).notice q = s.notice q := rfl
@[simp] theorem State.link_onCue (s : State) (l : CueLine) (f : CueState → CueState) (q : Nat) :
    (s.onCue l f).link q = s.link q := rfl
@[simp] theorem State.clockLost_onCue (s : State) (l : CueLine) (f : CueState → CueState) :
    (s.onCue l f).clockLost = s.clockLost := rfl

@[simp] theorem State.setHolder_held (s : State) (r : ClaimRecord) (h : Option Port) :
    (s.setHolder r h).held = s.held := rfl
@[simp] theorem State.setHolder_record (s : State) (r : ClaimRecord) (h : Option Port) :
    (s.setHolder r h).record = s.record := rfl
@[simp] theorem State.setHolder_resetRequest (s : State) (r : ClaimRecord) (h : Option Port) :
    (s.setHolder r h).resetRequest = s.resetRequest := rfl
@[simp] theorem State.setHolder_monitor (s : State) (r : ClaimRecord) (h : Option Port) :
    (s.setHolder r h).monitor = s.monitor := rfl
@[simp] theorem State.setHolder_frameOpen (s : State) (r : ClaimRecord) (h : Option Port) :
    (s.setHolder r h).frameOpen = s.frameOpen := rfl
@[simp] theorem State.setHolder_tdmOut (s : State) (r : ClaimRecord) (h : Option Port) :
    (s.setHolder r h).tdmOut = s.tdmOut := rfl
@[simp] theorem State.setHolder_progs (s : State) (r : ClaimRecord) (h : Option Port) :
    (s.setHolder r h).progs = s.progs := rfl
@[simp] theorem State.setHolder_links (s : State) (r : ClaimRecord) (h : Option Port) :
    (s.setHolder r h).links = s.links := rfl
@[simp] theorem State.setHolder_scan (s : State) (r : ClaimRecord) (h : Option Port) :
    (s.setHolder r h).scan = s.scan := rfl
@[simp] theorem State.setHolder_cues (s : State) (r : ClaimRecord) (h : Option Port) :
    (s.setHolder r h).cues = s.cues := rfl
@[simp] theorem State.setHolder_cueLog (s : State) (r : ClaimRecord) (h : Option Port) :
    (s.setHolder r h).cueLog = s.cueLog := rfl
@[simp] theorem State.setHolder_gapMark (s : State) (r : ClaimRecord) (h : Option Port) :
    (s.setHolder r h).gapMark = s.gapMark := rfl
@[simp] theorem State.setHolder_ports (s : State) (r : ClaimRecord) (h : Option Port) :
    (s.setHolder r h).ports = s.ports := rfl
@[simp] theorem State.setHolder_notices (s : State) (r : ClaimRecord) (h : Option Port) :
    (s.setHolder r h).notices = s.notices := rfl
@[simp] theorem State.setHolder_pending (s : State) (r : ClaimRecord) (h : Option Port) :
    (s.setHolder r h).pending = s.pending := rfl
@[simp] theorem State.prog_setHolder (s : State) (r : ClaimRecord) (h : Option Port) (q : Prog) :
    (s.setHolder r h).prog q = s.prog q := rfl
@[simp] theorem State.port_setHolder (s : State) (r : ClaimRecord) (h : Option Port) (q : Port) :
    (s.setHolder r h).port q = s.port q := rfl
@[simp] theorem State.cue_setHolder (s : State) (r : ClaimRecord) (h : Option Port) (q : CueLine) :
    (s.setHolder r h).cue q = s.cue q := rfl
@[simp] theorem State.notice_setHolder (s : State) (r : ClaimRecord) (h : Option Port) (q : Port) :
    (s.setHolder r h).notice q = s.notice q := rfl
@[simp] theorem State.link_setHolder (s : State) (r : ClaimRecord) (h : Option Port) (q : Nat) :
    (s.setHolder r h).link q = s.link q := rfl
@[simp] theorem State.clockLost_setHolder (s : State) (r : ClaimRecord) (h : Option Port) :
    (s.setHolder r h).clockLost = s.clockLost := rfl

@[simp] theorem State.mapNotices_held (s : State) (f : Port → Notice → Notice) : (s.mapNotices f).held = s.held := rfl
@[simp] theorem State.mapNotices_record (s : State) (f : Port → Notice → Notice) :
    (s.mapNotices f).record = s.record := rfl
@[simp] theorem State.mapNotices_resetRequest (s : State) (f : Port → Notice → Notice) :
    (s.mapNotices f).resetRequest = s.resetRequest := rfl
@[simp] theorem State.mapNotices_monitor (s : State) (f : Port → Notice → Notice) :
    (s.mapNotices f).monitor = s.monitor := rfl
@[simp] theorem State.mapNotices_frameOpen (s : State) (f : Port → Notice → Notice) :
    (s.mapNotices f).frameOpen = s.frameOpen := rfl
@[simp] theorem State.mapNotices_tdmOut (s : State) (f : Port → Notice → Notice) :
    (s.mapNotices f).tdmOut = s.tdmOut := rfl
@[simp] theorem State.mapNotices_progs (s : State) (f : Port → Notice → Notice) :
    (s.mapNotices f).progs = s.progs := rfl
@[simp] theorem State.mapNotices_links (s : State) (f : Port → Notice → Notice) :
    (s.mapNotices f).links = s.links := rfl
@[simp] theorem State.mapNotices_scan (s : State) (f : Port → Notice → Notice) : (s.mapNotices f).scan = s.scan := rfl
@[simp] theorem State.mapNotices_cues (s : State) (f : Port → Notice → Notice) : (s.mapNotices f).cues = s.cues := rfl
@[simp] theorem State.mapNotices_cueLog (s : State) (f : Port → Notice → Notice) :
    (s.mapNotices f).cueLog = s.cueLog := rfl
@[simp] theorem State.mapNotices_gapMark (s : State) (f : Port → Notice → Notice) :
    (s.mapNotices f).gapMark = s.gapMark := rfl
@[simp] theorem State.mapNotices_claims (s : State) (f : Port → Notice → Notice) :
    (s.mapNotices f).claims = s.claims := rfl
@[simp] theorem State.mapNotices_ports (s : State) (f : Port → Notice → Notice) :
    (s.mapNotices f).ports = s.ports := rfl
@[simp] theorem State.mapNotices_pending (s : State) (f : Port → Notice → Notice) :
    (s.mapNotices f).pending = s.pending := rfl
@[simp] theorem State.prog_mapNotices (s : State) (f : Port → Notice → Notice) (q : Prog) :
    (s.mapNotices f).prog q = s.prog q := rfl
@[simp] theorem State.port_mapNotices (s : State) (f : Port → Notice → Notice) (q : Port) :
    (s.mapNotices f).port q = s.port q := rfl
@[simp] theorem State.cue_mapNotices (s : State) (f : Port → Notice → Notice) (q : CueLine) :
    (s.mapNotices f).cue q = s.cue q := rfl
@[simp] theorem State.holder_mapNotices (s : State) (f : Port → Notice → Notice) (q : ClaimRecord) :
    (s.mapNotices f).holder q = s.holder q := rfl
@[simp] theorem State.link_mapNotices (s : State) (f : Port → Notice → Notice) (q : Nat) :
    (s.mapNotices f).link q = s.link q := rfl
@[simp] theorem State.clockLost_mapNotices (s : State) (f : Port → Notice → Notice) :
    (s.mapNotices f).clockLost = s.clockLost := rfl

@[simp] theorem State.fire_held (s : State) (x : Source) : (s.fire x).held = s.held := rfl
@[simp] theorem State.fire_record (s : State) (x : Source) : (s.fire x).record = s.record := rfl
@[simp] theorem State.fire_resetRequest (s : State) (x : Source) : (s.fire x).resetRequest = s.resetRequest := rfl
@[simp] theorem State.fire_monitor (s : State) (x : Source) : (s.fire x).monitor = s.monitor := rfl
@[simp] theorem State.fire_frameOpen (s : State) (x : Source) : (s.fire x).frameOpen = s.frameOpen := rfl
@[simp] theorem State.fire_tdmOut (s : State) (x : Source) : (s.fire x).tdmOut = s.tdmOut := rfl
@[simp] theorem State.fire_progs (s : State) (x : Source) : (s.fire x).progs = s.progs := rfl
@[simp] theorem State.fire_links (s : State) (x : Source) : (s.fire x).links = s.links := rfl
@[simp] theorem State.fire_scan (s : State) (x : Source) : (s.fire x).scan = s.scan := rfl
@[simp] theorem State.fire_cues (s : State) (x : Source) : (s.fire x).cues = s.cues := rfl
@[simp] theorem State.fire_cueLog (s : State) (x : Source) : (s.fire x).cueLog = s.cueLog := rfl
@[simp] theorem State.fire_gapMark (s : State) (x : Source) : (s.fire x).gapMark = s.gapMark := rfl
@[simp] theorem State.fire_claims (s : State) (x : Source) : (s.fire x).claims = s.claims := rfl
@[simp] theorem State.fire_ports (s : State) (x : Source) : (s.fire x).ports = s.ports := rfl
@[simp] theorem State.fire_pending (s : State) (x : Source) : (s.fire x).pending = s.pending := rfl
@[simp] theorem State.prog_fire (s : State) (x : Source) (q : Prog) : (s.fire x).prog q = s.prog q := rfl
@[simp] theorem State.port_fire (s : State) (x : Source) (q : Port) : (s.fire x).port q = s.port q := rfl
@[simp] theorem State.cue_fire (s : State) (x : Source) (q : CueLine) : (s.fire x).cue q = s.cue q := rfl
@[simp] theorem State.holder_fire (s : State) (x : Source) (q : ClaimRecord) : (s.fire x).holder q = s.holder q := rfl
@[simp] theorem State.link_fire (s : State) (x : Source) (q : Nat) : (s.fire x).link q = s.link q := rfl
@[simp] theorem State.clockLost_fire (s : State) (x : Source) : (s.fire x).clockLost = s.clockLost := rfl

@[simp] theorem State.fireIf_held (s : State) (b : Bool) (x : Source) :
    (s.fireIf b x).held = s.held := by cases b <;> rfl
@[simp] theorem State.fireIf_record (s : State) (b : Bool) (x : Source) :
    (s.fireIf b x).record = s.record := by cases b <;> rfl
@[simp] theorem State.fireIf_resetRequest (s : State) (b : Bool) (x : Source) :
    (s.fireIf b x).resetRequest = s.resetRequest := by cases b <;> rfl
@[simp] theorem State.fireIf_monitor (s : State) (b : Bool) (x : Source) :
    (s.fireIf b x).monitor = s.monitor := by cases b <;> rfl
@[simp] theorem State.fireIf_frameOpen (s : State) (b : Bool) (x : Source) :
    (s.fireIf b x).frameOpen = s.frameOpen := by cases b <;> rfl
@[simp] theorem State.fireIf_tdmOut (s : State) (b : Bool) (x : Source) :
    (s.fireIf b x).tdmOut = s.tdmOut := by cases b <;> rfl
@[simp] theorem State.fireIf_progs (s : State) (b : Bool) (x : Source) :
    (s.fireIf b x).progs = s.progs := by cases b <;> rfl
@[simp] theorem State.fireIf_links (s : State) (b : Bool) (x : Source) :
    (s.fireIf b x).links = s.links := by cases b <;> rfl
@[simp] theorem State.fireIf_scan (s : State) (b : Bool) (x : Source) :
    (s.fireIf b x).scan = s.scan := by cases b <;> rfl
@[simp] theorem State.fireIf_cues (s : State) (b : Bool) (x : Source) :
    (s.fireIf b x).cues = s.cues := by cases b <;> rfl
@[simp] theorem State.fireIf_cueLog (s : State) (b : Bool) (x : Source) :
    (s.fireIf b x).cueLog = s.cueLog := by cases b <;> rfl
@[simp] theorem State.fireIf_gapMark (s : State) (b : Bool) (x : Source) :
    (s.fireIf b x).gapMark = s.gapMark := by cases b <;> rfl
@[simp] theorem State.fireIf_claims (s : State) (b : Bool) (x : Source) :
    (s.fireIf b x).claims = s.claims := by cases b <;> rfl
@[simp] theorem State.fireIf_ports (s : State) (b : Bool) (x : Source) :
    (s.fireIf b x).ports = s.ports := by cases b <;> rfl
@[simp] theorem State.fireIf_pending (s : State) (b : Bool) (x : Source) :
    (s.fireIf b x).pending = s.pending := by cases b <;> rfl
@[simp] theorem State.prog_fireIf (s : State) (b : Bool) (x : Source) (q : Prog) :
    (s.fireIf b x).prog q = s.prog q := by cases b <;> rfl
@[simp] theorem State.port_fireIf (s : State) (b : Bool) (x : Source) (q : Port) :
    (s.fireIf b x).port q = s.port q := by cases b <;> rfl
@[simp] theorem State.cue_fireIf (s : State) (b : Bool) (x : Source) (q : CueLine) :
    (s.fireIf b x).cue q = s.cue q := by cases b <;> rfl
@[simp] theorem State.holder_fireIf (s : State) (b : Bool) (x : Source) (q : ClaimRecord) :
    (s.fireIf b x).holder q = s.holder q := by cases b <;> rfl
@[simp] theorem State.link_fireIf (s : State) (b : Bool) (x : Source) (q : Nat) :
    (s.fireIf b x).link q = s.link q := by cases b <;> rfl
@[simp] theorem State.clockLost_fireIf (s : State) (b : Bool) (x : Source) :
    (s.fireIf b x).clockLost = s.clockLost := by cases b <;> rfl

@[simp] theorem State.followFrom_held (s : State) (u : State) : (s.followFrom u).held = s.held := rfl
@[simp] theorem State.followFrom_record (s : State) (u : State) : (s.followFrom u).record = s.record := rfl
@[simp] theorem State.followFrom_resetRequest (s : State) (u : State) :
    (s.followFrom u).resetRequest = s.resetRequest := rfl
@[simp] theorem State.followFrom_monitor (s : State) (u : State) : (s.followFrom u).monitor = s.monitor := rfl
@[simp] theorem State.followFrom_frameOpen (s : State) (u : State) : (s.followFrom u).frameOpen = s.frameOpen := rfl
@[simp] theorem State.followFrom_tdmOut (s : State) (u : State) : (s.followFrom u).tdmOut = s.tdmOut := rfl
@[simp] theorem State.followFrom_progs (s : State) (u : State) : (s.followFrom u).progs = s.progs := rfl
@[simp] theorem State.followFrom_links (s : State) (u : State) : (s.followFrom u).links = s.links := rfl
@[simp] theorem State.followFrom_scan (s : State) (u : State) : (s.followFrom u).scan = s.scan := rfl
@[simp] theorem State.followFrom_cues (s : State) (u : State) : (s.followFrom u).cues = s.cues := rfl
@[simp] theorem State.followFrom_cueLog (s : State) (u : State) : (s.followFrom u).cueLog = s.cueLog := rfl
@[simp] theorem State.followFrom_gapMark (s : State) (u : State) : (s.followFrom u).gapMark = s.gapMark := rfl
@[simp] theorem State.followFrom_claims (s : State) (u : State) : (s.followFrom u).claims = s.claims := rfl
@[simp] theorem State.followFrom_ports (s : State) (u : State) : (s.followFrom u).ports = s.ports := rfl
@[simp] theorem State.followFrom_pending (s : State) (u : State) : (s.followFrom u).pending = s.pending := rfl
@[simp] theorem State.prog_followFrom (s : State) (u : State) (q : Prog) : (s.followFrom u).prog q = s.prog q := rfl
@[simp] theorem State.port_followFrom (s : State) (u : State) (q : Port) : (s.followFrom u).port q = s.port q := rfl
@[simp] theorem State.cue_followFrom (s : State) (u : State) (q : CueLine) : (s.followFrom u).cue q = s.cue q := rfl
@[simp] theorem State.holder_followFrom (s : State) (u : State) (q : ClaimRecord) :
    (s.followFrom u).holder q = s.holder q := rfl
@[simp] theorem State.link_followFrom (s : State) (u : State) (q : Nat) : (s.followFrom u).link q = s.link q := rfl
@[simp] theorem State.clockLost_followFrom (s : State) (u : State) : (s.followFrom u).clockLost = s.clockLost := rfl

end Sys2Proof.Machine
end

