-- ==== Sys2Proof/Laws/Notices.lean ====
section
/-! SUPPORT. What the notice unit's operations do: the conditions as bits, and the taking of condition changes. -/

namespace Sys2Proof.Machine

/-- The conditions are read off these six facts alone. -/
theorem State.conditions_congr {s t : State} (h1 : t.clockLost = s.clockLost) (h2 : t.anyWarn = s.anyWarn)
    (h3 : t.anyFault = s.anyFault) (h4 : 4 ≤ t.cueLog.length ↔ 4 ≤ s.cueLog.length) (h5 : t.anyAbsent = s.anyAbsent)
    (h6 : t.anyHeavy = s.anyHeavy) : t.conditions = s.conditions := by
  simp [State.conditions, h1, h2, h3, h4, h5, h6]

theorem State.anyWarn_congr {s t : State} (h : ∀ p, (t.prog p).deviation = (s.prog p).deviation) :
    t.anyWarn = s.anyWarn := by simp [State.anyWarn, h]

theorem State.anyFault_congr {s t : State} (h : ∀ p, (t.prog p).deviation = (s.prog p).deviation) :
    t.anyFault = s.anyFault := by simp [State.anyFault, h]

theorem State.anyHeavy_congr {s t : State} (h : ∀ p, (t.prog p).heavy = (s.prog p).heavy) :
    t.anyHeavy = s.anyHeavy := by simp [State.anyHeavy, h]

theorem State.anyAbsent_congr {s t : State} (h : ∀ p, (t.port p).isAbsent = (s.port p).isAbsent) :
    t.anyAbsent = s.anyAbsent := by simp [State.anyAbsent, h]

/-- A state with the same monitor, programmes, cue log and ports has the same conditions. -/
theorem State.conditions_eq {s t : State} (h1 : t.monitor = s.monitor) (h2 : t.progs = s.progs)
    (h3 : t.cueLog = s.cueLog) (h4 : t.ports = s.ports) : t.conditions = s.conditions := by
  have hp : ∀ p, t.prog p = s.prog p := fun p => by simp [State.prog, h2]
  have hq : ∀ p, t.port p = s.port p := fun p => by simp [State.port, h4]
  exact State.conditions_congr (by simp [State.clockLost, h1]) (State.anyWarn_congr fun p => by rw [hp])
    (State.anyFault_congr fun p => by rw [hp]) (by rw [h3]) (State.anyAbsent_congr fun p => by rw [hq])
    (State.anyHeavy_congr fun p => by rw [hp])

@[simp] theorem State.conditions_mapNotices (s : State) (f : Port → Notice → Notice) :
    (s.mapNotices f).conditions = s.conditions := rfl

@[simp] theorem State.conditions_fire (s : State) (x : Source) : (s.fire x).conditions = s.conditions := rfl

@[simp] theorem State.conditions_fireIf (s : State) (b : Bool) (x : Source) :
    (s.fireIf b x).conditions = s.conditions := by cases b <;> rfl

@[simp] theorem State.conditions_followFrom (s u : State) : (s.followFrom u).conditions = s.conditions := rfl

/-- The bit of a condition source in the conditions is that condition. -/
theorem State.conditions_getLsbD (s : State) (i : Nat) :
    s.conditions.getLsbD i =
      (decide (i = 1) && s.clockLost || decide (i = 2) && s.anyWarn || decide (i = 3) && s.anyFault ||
        decide (i = 6) && decide (4 ≤ s.cueLog.length) || decide (i = 10) && s.anyAbsent ||
        decide (i = 11) && s.anyHeavy) := by
  have hb : ∀ (x : Source) (b : Bool), (x.bitIf b).getLsbD i = (decide (i = x.num) && b) := by
    intro x b
    cases b
    · simp [Source.bitIf]
    · cases x <;> simp [Source.bitIf, Source.bit, Source.num, BitVec.getLsbD_twoPow, eq_comm (a := i)]
  simp only [State.conditions, BitVec.getLsbD_or, hb, Source.num]
  rfl

/-- `CLOCK_LOST` reads true exactly while the monitor is LOST (R4). -/
theorem State.conditions_clockLost (s : State) :
    s.conditions &&& Source.clockLost.bit = Source.clockLost.bit ↔ s.clockLost = true := by
  constructor
  · intro h
    have h1 : (s.conditions &&& Source.clockLost.bit).getLsbD 1 = Source.clockLost.bit.getLsbD 1 := by rw [h]
    rw [BitVec.getLsbD_and, s.conditions_getLsbD] at h1
    simpa [Source.bit, Source.num] using h1
  · intro h
    apply BitVec.eq_of_getLsbD_eq
    intro i _
    rw [BitVec.getLsbD_and, s.conditions_getLsbD, h]
    by_cases h1 : i = 1
    · subst h1; rfl
    · have : Source.clockLost.bit.getLsbD i = false := by
        simp [Source.bit, Source.num, BitVec.getLsbD_twoPow, Ne.symm h1]
      simp [this]

/-- With no condition changed, a station whose LEVEL bits agree keeps its sets. -/
theorem Notice.follow_self (n : Notice) (now : SourceSet)
    (h : n.pending &&& n.mask &&& n.modes = now &&& n.mask &&& n.modes) : n.follow now now = n := by
  have : (n.pending &&& ~~~(n.modes &&& n.mask)) ||| (now &&& (n.modes &&& n.mask)) |||
      (now &&& ~~~now &&& n.mask &&& ~~~n.modes) = n.pending := by
    ext i hi
    have hb := congrArg (fun x => BitVec.getLsbD x i) h
    simp only [BitVec.getLsbD_eq_getElem hi, BitVec.getElem_and] at hb
    simp only [BitVec.getElem_or, BitVec.getElem_and, BitVec.getElem_not]
    revert hb
    cases n.pending[i] <;> cases n.mask[i] <;> cases n.modes[i] <;> cases now[i] <;> simp
  cases n
  simpa [Notice.follow] using this

/-- Two changes of the conditions, with events between them, come to one, where the first only clears conditions that the second leaves
clear. -/
theorem Notice.follow_follow (n : Notice) (a b now fired : SourceSet) (hab : b &&& ~~~a = 0) (hc : a &&& ~~~b &&& now = 0) :
    Notice.follow { n.follow a b with pending := (n.follow a b).pending ||| (n.mask &&& fired) } b now =
      Notice.follow { n with pending := n.pending ||| (n.mask &&& fired) } a now := by
  simp only [Notice.follow, Notice.mk.injEq, true_and]
  ext i hi
  have h1 := congrArg (fun x => BitVec.getLsbD x i) hab
  have h2 := congrArg (fun x => BitVec.getLsbD x i) hc
  simp only [BitVec.getLsbD_eq_getElem hi, BitVec.getElem_and, BitVec.getElem_not, BitVec.ofNat_eq_ofNat,
    BitVec.getElem_zero] at h1 h2
  simp only [BitVec.getElem_or, BitVec.getElem_and, BitVec.getElem_not]
  revert h1 h2
  cases n.pending[i] <;> cases n.mask[i] <;> cases n.modes[i] <;> cases a[i] <;> cases b[i] <;> cases now[i] <;>
    cases fired[i] <;> simp

@[simp] theorem Notice.follow_mask (n : Notice) (a b : SourceSet) : (n.follow a b).mask = n.mask := rfl

@[simp] theorem Notice.follow_modes (n : Notice) (a b : SourceSet) : (n.follow a b).modes = n.modes := rfl

/-- Following makes the LEVEL bits agree, whatever they were, and pends nothing outside the mask (R191, R193). -/
theorem Notice.follow_agrees (n : Notice) (a b : SourceSet) (h : n.pending &&& ~~~n.mask = 0) :
    (n.follow a b).pending &&& ~~~n.mask = 0 ∧
    (n.follow a b).pending &&& n.mask &&& n.modes = b &&& n.mask &&& n.modes := by
  constructor <;> ext i hi <;> have hb := congrArg (fun x => BitVec.getLsbD x i) h <;>
    simp only [BitVec.getLsbD_eq_getElem hi, BitVec.getElem_and, BitVec.getElem_not, BitVec.ofNat_eq_ofNat,
      BitVec.getElem_zero] at hb <;>
    simp only [Notice.follow, BitVec.getElem_or, BitVec.getElem_and, BitVec.getElem_not, BitVec.ofNat_eq_ofNat,
      BitVec.getElem_zero] <;>
    revert hb <;> cases n.pending[i] <;> cases n.mask[i] <;> cases n.modes[i] <;> cases a[i] <;> cases b[i] <;> simp

end Sys2Proof.Machine
end

