-- ==== Sys2Proof/Laws/Requests.lean ====
section
/-! SUPPORT. What hearing and answering a message do, said once: the provers cite `State.takeMessage_answers`,
`State.takeMessage_refuses` and `State.takeMessage_serving` instead of unfolding the ports. -/

namespace Sys2Proof.Machine

/-! ### Hearing (R165, R167, R175) -/

@[simp] theorem State.hear_held (s : State) (port : Port) : (s.hear port).held = s.held := rfl
@[simp] theorem State.hear_record (s : State) (port : Port) : (s.hear port).record = s.record := rfl
@[simp] theorem State.hear_resetRequest (s : State) (port : Port) : (s.hear port).resetRequest = s.resetRequest := rfl
@[simp] theorem State.hear_monitor (s : State) (port : Port) : (s.hear port).monitor = s.monitor := rfl
@[simp] theorem State.hear_frameOpen (s : State) (port : Port) : (s.hear port).frameOpen = s.frameOpen := rfl
@[simp] theorem State.hear_tdmOut (s : State) (port : Port) : (s.hear port).tdmOut = s.tdmOut := rfl
@[simp] theorem State.hear_progs (s : State) (port : Port) : (s.hear port).progs = s.progs := rfl
@[simp] theorem State.hear_links (s : State) (port : Port) : (s.hear port).links = s.links := rfl
@[simp] theorem State.hear_scan (s : State) (port : Port) : (s.hear port).scan = s.scan := rfl
@[simp] theorem State.hear_cues (s : State) (port : Port) : (s.hear port).cues = s.cues := rfl
@[simp] theorem State.hear_cueLog (s : State) (port : Port) : (s.hear port).cueLog = s.cueLog := rfl
@[simp] theorem State.hear_gapMark (s : State) (port : Port) : (s.hear port).gapMark = s.gapMark := rfl
@[simp] theorem State.hear_claims (s : State) (port : Port) : (s.hear port).claims = s.claims := rfl
@[simp] theorem State.hear_pending (s : State) (port : Port) : (s.hear port).pending = s.pending := rfl
@[simp] theorem State.prog_hear (s : State) (port : Port) (q : Prog) : (s.hear port).prog q = s.prog q := rfl
@[simp] theorem State.cue_hear (s : State) (port : Port) (q : CueLine) : (s.hear port).cue q = s.cue q := rfl
@[simp] theorem State.holder_hear (s : State) (port : Port) (q : ClaimRecord) : (s.hear port).holder q = s.holder q := rfl
@[simp] theorem State.link_hear (s : State) (port : Port) (q : Nat) : (s.hear port).link q = s.link q := rfl
@[simp] theorem State.clockLost_hear (s : State) (port : Port) : (s.hear port).clockLost = s.clockLost := rfl
@[simp] theorem State.sameGroup_hear (s : State) (port : Port) (p q : Prog) :
    (s.hear port).sameGroup p q = s.sameGroup p q := rfl
@[simp] theorem State.activeGroup_hear (s : State) (port : Port) (p : Prog) :
    (s.hear port).activeGroup p = s.activeGroup p := rfl
@[simp] theorem State.programmeStatus_hear (s : State) (port : Port) (p : Prog) :
    (s.hear port).programmeStatus p = s.programmeStatus p := rfl

@[simp] theorem State.port_hear (s : State) (port q : Port) : (s.hear port).port q =
    if q = port then { s.port q with receive := .idle, presence := .present silenceCycles, overtaken := (s.port q).passed } else s.port q := by
  simp [State.hear]

/-- The one message that finds a silence timer run out leaves its expiry overtaken (R168). -/
theorem PortState.passed_of_runOut {P : PortState} (h : P.presence = .present 0) : P.passed = true := by
  simp [PortState.passed, PortState.runOut, h]

/-- What the expiry of a silence timer can do (R166, R168). -/
theorem State.declareAbsent_cases (s : State) (port : Port) :
    ((s.held = true ∨ (s.port port).isAbsent = true) ∧ s.declareAbsent port = s) ∨
    (s.held = false ∧ (s.port port).isAbsent = false ∧ (s.port port).overtaken = true ∧
      s.declareAbsent port = s.onPort port fun P => { P with overtaken := false }) ∨
    (s.held = false ∧ (s.port port).isAbsent = false ∧ (s.port port).overtaken = false ∧
      s.declareAbsent port =
        ((s.onPort port fun P => { P with presence := .absent }).dropClaims port).followFrom s) := by
  cases hh : s.held <;> cases ha : (s.port port).isAbsent <;> cases ho : (s.port port).overtaken <;>
    simp [State.declareAbsent, hh, ha, ho]

@[simp] theorem State.access_hear (s : State) (port q : Port) : ((s.hear port).port q).access = (s.port q).access := by
  rw [State.port_hear]; split <;> rfl

@[simp] theorem State.serving_hear (s : State) (port q : Port) : ((s.hear port).port q).serving = (s.port q).serving := by
  rw [State.port_hear]; split <;> rfl

/-- Hearing a station can only end an absence. -/
theorem State.anyAbsent_hear (s : State) (port : Port) (h : (s.hear port).anyAbsent = true) : s.anyAbsent = true := by
  simp only [State.anyAbsent, List.any_eq_true] at h ⊢
  obtain ⟨q, hq, ha⟩ := h
  refine ⟨q, hq, ?_⟩
  rw [State.port_hear] at ha
  split at ha
  · simp [PortState.isAbsent] at ha
  · exact ha

/-- The conditions of `u`, a state reached from hearing without touching the ports, against those before the hearing. -/
theorem State.conditions_hear_le (s u : State) (port : Port) (hu : u.anyAbsent = (s.hear port).anyAbsent) :
    (s.hear port).conditions &&& ~~~s.conditions = 0 ∧
    s.conditions &&& ~~~(s.hear port).conditions &&& u.conditions = 0 := by
  have hsame : ∀ i, i ≠ 10 → (s.hear port).conditions.getLsbD i = s.conditions.getLsbD i := by
    intro i hi
    rw [State.conditions_getLsbD, State.conditions_getLsbD]
    simp only [hi, decide_false, Bool.false_and, Bool.or_false]
    rfl
  have hbit : ∀ v : State, v.conditions.getLsbD 10 = v.anyAbsent := fun v => by
    rw [State.conditions_getLsbD]; simp
  have ha := s.anyAbsent_hear port
  constructor <;> ext i hi <;>
    simp only [← BitVec.getLsbD_eq_getElem, BitVec.getLsbD_and, BitVec.getLsbD_not, BitVec.ofNat_eq_ofNat,
      BitVec.getLsbD_zero, hi, decide_true, Bool.true_and] <;>
    by_cases h : i = 10
  · subst h; rw [hbit, hbit]; revert ha; cases (s.hear port).anyAbsent <;> simp
  · simp [hsame i h]
  · subst h; rw [hbit, hbit, hbit, hu]; cases (s.hear port).anyAbsent <;> simp
  · simp [hsame i h]

@[simp] theorem State.notice_hear (s : State) (port q : Port) :
    (s.hear port).notice q = (s.notice q).follow s.conditions (s.hear port).conditions := by
  simp only [State.hear, State.notice_followFrom, State.conditions_followFrom, State.notice_onPort]

/-! ### Answering (R173, R176) -/

/-- A request that is taken is heard, served and answered. -/
theorem State.takeMessage_ready {s : State} {port : Port} (code target : Byte) {payload : List Byte} (serve : Serve)
    (h : s.Ready port) (hp : payload.length ≤ 48) :
    s.takeMessage port code target payload serve =
      (s.hear port).answer port code target (serve port target payload (s.hear port)) := by
  have h1 : ¬(48 < payload.length) := by omega
  simp [State.takeMessage, h.1, h.2, h1, maxPayload]

/-- What a served request leaves: the answer at its port, the events that fired, and the state of its effect. `u` is the state the service
left, with the ports as the hearing left them. -/
theorem State.takeMessage_answers {s u : State} {port : Port} (code target : Byte) {payload : List Byte} {serve : Serve}
    {r : Result} {bytes : List Byte} (fired : SourceSet) (h : s.Ready port) (hp : payload.length ≤ 48)
    (hs : serve port target payload (s.hear port) = { state := u, result := r, payload := bytes })
    (hports : u.ports = (s.hear port).ports)
    (hn : ∀ q, u.notice q = { (s.hear port).notice q with
      pending := ((s.hear port).notice q).pending ||| (((s.hear port).notice q).mask &&& fired) }) :
    ∃ t, s.takeMessage port code target payload serve = t ∧ s.Answers t port code target r bytes fired ∧
      t = { u with ports := t.ports, notices := t.notices } ∧ t.conditions = u.conditions := by
  have hq : ∀ q, u.port q = (s.hear port).port q := fun q => by simp [State.port, hports]
  have hc : ((u.onPort port fun P => { P with serving := some (responseTo code target
      { state := u, result := r, payload := bytes }) }).followFrom (s.hear port)).conditions = u.conditions := by
    rw [State.conditions_followFrom]
    refine State.conditions_congr (by simp) (State.anyWarn_congr fun p => by simp) (State.anyFault_congr fun p => by simp)
      (by simp) (State.anyAbsent_congr fun p => ?_) (State.anyHeavy_congr fun p => by simp)
    rw [State.port_onPort]
    split <;> rfl
  refine ⟨_, rfl, ⟨⟨?_, ?_⟩, ?_⟩, ?_, ?_⟩
  all_goals rw [State.takeMessage_ready code target serve h hp, hs, State.answer]
  · simp [hq, responseTo, PortState.passed, PortState.runOut]
  · intro q hqp
    simp [hq, hqp]
  · intro q
    rw [hc, State.notice_followFrom, State.notice_onPort, hn q]
    rw [← State.conditions_followFrom (u.onPort port _) (s.hear port), hc, State.notice_hear]
    have ha : u.anyAbsent = (s.hear port).anyAbsent := by
      exact State.anyAbsent_congr fun p => by rw [hq]
    have hle := State.conditions_hear_le s u port ha
    exact Notice.follow_follow _ _ _ _ _ hle.1 hle.2
  · rfl
  · exact hc

/-- What a refusal, or a read, leaves: the answer and nothing else. -/
theorem State.takeMessage_refuses {s : State} {port : Port} (code target : Byte) {payload : List Byte} {serve : Serve}
    {r : Result} {bytes : List Byte} (h : s.Ready port) (hp : payload.length ≤ 48)
    (hs : serve port target payload (s.hear port) = { state := s.hear port, result := r, payload := bytes }) :
    ∃ t, s.takeMessage port code target payload serve = t ∧ s.Refuses t port code target r bytes ∧
      t.conditions = (s.hear port).conditions := by
  obtain ⟨t, ht, ha, he, hc⟩ := State.takeMessage_answers code target 0 h hp hs rfl
    (fun q => by cases (s.hear port).notice q; simp)
  refine ⟨t, ht, ⟨ha, ?_⟩, hc⟩
  rw [he]
  rfl

/-- What a request leaves that rewrites one programme and fires nothing. -/
theorem State.takeMessage_onProg {s : State} {port : Port} (code target : Byte) {p : Prog} {payload : List Byte} {serve : Serve}
    {r : Result} {bytes : List Byte} (f : Programme → Programme) (h : s.Ready port) (hp : payload.length ≤ 48)
    (hs : serve port target payload (s.hear port) =
      { state := (s.hear port).onProg p f, result := r, payload := bytes }) :
    ∃ t, s.takeMessage port code target payload serve = t ∧ s.Answers t port code target r bytes 0 ∧
      t = { s with ports := t.ports, notices := t.notices, progs := t.progs } ∧ (∀ q, q ≠ p → t.prog q = s.prog q) ∧
      t.prog p = f (s.prog p) := by
  obtain ⟨t, ht, ha, he, -⟩ := State.takeMessage_answers code target 0 h hp hs (by simp) (fun q => by
    rw [State.notice_onProg]; simp only [BitVec.ofNat_eq_ofNat, BitVec.and_zero, BitVec.or_zero])
  refine ⟨t, ht, ha, ?_, fun q hq => ?_, ?_⟩
  all_goals rw [he]
  · rfl
  · show ((s.hear port).onProg p f).prog q = _
    simp [hq]
  · show ((s.hear port).onProg p f).prog p = _
    simp

/-- What a request leaves whose effect `g` reads and writes programmes and fires events, and nothing else. -/
theorem State.takeMessage_onProgs {s : State} {port : Port} (code target : Byte) {payload : List Byte} {serve : Serve}
    {g : State → State} {r : Result} {bytes : List Byte} (fired : SourceSet) (h : s.Ready port) (hp : payload.length ≤ 48)
    (hs : serve port target payload (s.hear port) = { state := g (s.hear port), result := r, payload := bytes })
    (hg : g (s.hear port) = { s.hear port with progs := (g s).progs, notices := (g (s.hear port)).notices })
    (hn : ∀ q, (g (s.hear port)).notice q = { (s.hear port).notice q with
      pending := ((s.hear port).notice q).pending ||| (((s.hear port).notice q).mask &&& fired) }) :
    ∃ t, s.takeMessage port code target payload serve = t ∧ s.Answers t port code target r bytes fired ∧
      t = { s with ports := t.ports, notices := t.notices, progs := t.progs } ∧ ∀ q, t.prog q = (g s).prog q := by
  obtain ⟨t, ht, ha, he, -⟩ := State.takeMessage_answers code target fired h hp hs (by rw [hg]) hn
  refine ⟨t, ht, ha, ?_, fun q => ?_⟩
  all_goals rw [he, hg]
  · rfl
  · rfl

/-- A message that completes while its port is SERVING is only heard (R176). -/
theorem State.takeMessage_serving {s : State} {port : Port} (code target : Byte) {payload m : List Byte} (serve : Serve)
    (hh : s.held = false) (hm : (s.port port).serving = some m) (hp : payload.length ≤ 48) :
    s.takeMessage port code target payload serve = s.hear port := by
  have h1 : ¬(48 < payload.length) := by omega
  simp [State.takeMessage, hh, hm, h1, maxPayload]

/-- In a reset hold no message is taken (R200). -/
theorem State.takeMessage_held {s : State} {port : Port} (code target : Byte) (payload : List Byte) (serve : Serve)
    (hh : s.held = true) : s.takeMessage port code target payload serve = s := by
  simp [State.takeMessage, hh]

/-- Every way a message can be taken: not at all, heard and discarded, or served. -/
theorem State.takeMessage_cases (s : State) (port : Port) (code target : Byte) (payload : List Byte) (serve : Serve) :
    s.takeMessage port code target payload serve = s ∨
    s.takeMessage port code target payload serve = s.hear port ∨
    (s.Ready port ∧ payload.length ≤ 48 ∧ s.takeMessage port code target payload serve =
      (s.hear port).answer port code target (serve port target payload (s.hear port))) := by
  by_cases hh : s.held = true
  · exact .inl (State.takeMessage_held code target payload serve hh)
  · by_cases hp : payload.length ≤ 48
    · cases hm : (s.port port).serving with
      | some m => exact .inr (.inl (State.takeMessage_serving code target serve (by simpa using hh) hm hp))
      | none =>
        have hr : s.Ready port := ⟨by simpa using hh, hm⟩
        exact .inr (.inr ⟨hr, hp, State.takeMessage_ready code target serve hr hp⟩)
    · left
      have h1 : 48 < payload.length := by omega
      simp [State.takeMessage, h1, maxPayload]

end Sys2Proof.Machine
end

