-- ==== Sys2Proof/Laws/Checks.lean ====
section
/-! SUPPORT. The order of checks, one lemma for each outcome of each check (R163, R179), and the values that payload bytes carry. -/

namespace Sys2Proof.Machine

theorem needFull_full {port : Port} {s : State} (h : (s.port port).access = .full) (k : Reply) :
    needFull port s k = k := by simp [needFull, h]

theorem needFull_readOnly {port : Port} {s : State} (h : (s.port port).access = .readOnly) (k : Reply) :
    needFull port s k = refuse s .readOnly := by simp [needFull, h]

theorem needSize_eq {n : Nat} {payload : List Byte} (h : payload.length = n) (s : State) (k : Reply) :
    needSize n payload s k = k := by simp [needSize, h]

theorem needSize_ne {n : Nat} {payload : List Byte} (h : payload.length ≠ n) (s : State) (k : Reply) :
    needSize n payload s k = refuse s .badRequest := by simp [needSize, h]

theorem needBelow_eq {n : Nat} {b : Byte} {i : Fin n} (h : b.toNat = i.val) (s : State) (k : Fin n → Reply) :
    needBelow n b s k = k i := by simp [needBelow, h]

theorem needBelow_out {n : Nat} {b : Byte} (h : n ≤ b.toNat) (s : State) (k : Fin n → Reply) :
    needBelow n b s k = refuse s .badTarget := by
  have : ¬ b.toNat < n := by omega
  simp [needBelow, this]

theorem needValue_some {α : Type} {x : Option α} {a : α} (h : x = some a) (s : State) (k : α → Reply) :
    needValue x s k = k a := by simp [needValue, h]

theorem needValue_none {α : Type} {x : Option α} (h : x = none) (s : State) (k : α → Reply) :
    needValue x s k = refuse s .badRequest := by simp [needValue, h]

theorem needClaim_held {port : Port} {r : ClaimRecord} {s : State} (h : s.holder r = some port) (k : Reply) :
    needClaim port r s k = k := by simp [needClaim, h]

theorem needClaim_not {port : Port} {r : ClaimRecord} {s : State} (h : s.holder r ≠ some port) (k : Reply) :
    needClaim port r s k = { state := s, result := .notClaimed, payload := [stationByte (s.holder r)] } := by
  simp [needClaim, h]

theorem needIdleSlot_busy {p : Prog} {i : Slot} {s : State} (h : (s.prog p).mode = .active ∧ (s.prog p).inService = i)
    (k : Reply) : needIdleSlot p i s k = refuse s .inService := by simp [needIdleSlot, h]

theorem needIdleSlot_idle {p : Prog} {i : Slot} {s : State} (h : ¬((s.prog p).mode = .active ∧ (s.prog p).inService = i))
    (k : Reply) : needIdleSlot p i s k = k := if_neg h

/-! ### Bytes -/

theorem count8_fin {n : Nat} (h : n ≤ 256) (i : Fin n) : (count8 i.val).toNat = i.val := by
  have := i.2
  simp [count8]; omega

@[simp] theorem boolOf_ofBool (b : Bool) : boolOf (if b then 1 else 0) = some b := by cases b <;> rfl

@[simp] theorem modeOf_code (m : Mode) : modeOf (count8 m.code) = some m := by cases m <;> rfl

@[simp] theorem actionOf_code (a : CueAction) : actionOf (count8 a.code) = some a := by cases a <;> rfl

theorem byteAt_cons_zero (b : Byte) (bs : List Byte) : byteAt (b :: bs) 0 = b := rfl

theorem byteAt_cons_succ (b : Byte) (bs : List Byte) (i : Nat) : byteAt (b :: bs) (i + 1) = byteAt bs i := by
  simp [byteAt]

/-- The bits of a 16-bit word, least significant byte first (R172). -/
theorem word16_getLsbD (lo hi : Byte) (i : Nat) :
    (word16 lo hi).getLsbD i = if i < 8 then lo.getLsbD i else hi.getLsbD (i - 8) := by
  have := BitVec.getLsbD_append (x := hi) (y := lo) (i := i)
  simpa [word16] using this

/-- The bits of a 32-bit word. -/
theorem word32_getLsbD (b0 b1 b2 b3 : Byte) (i : Nat) :
    (word32 b0 b1 b2 b3).getLsbD i =
      if i < 8 then b0.getLsbD i else if i < 16 then b1.getLsbD (i - 8) else if i < 24 then b2.getLsbD (i - 16)
      else b3.getLsbD (i - 24) := by
  have h1 := BitVec.getLsbD_append (x := b3 ++ b2 ++ b1) (y := b0) (i := i)
  have h2 := BitVec.getLsbD_append (x := b3 ++ b2) (y := b1) (i := i - 8)
  have h3 := BitVec.getLsbD_append (x := b3) (y := b2) (i := i - 8 - 8)
  refine h1.trans ?_
  rw [h2, h3]
  by_cases g1 : i < 8
  · simp [g1]
  · by_cases g2 : i < 16
    · simp [g1, g2, show i - 8 < 8 by omega]
    · by_cases g3 : i < 24
      · simp [g1, g2, g3, show ¬ i - 8 < 8 by omega, show i - 8 - 8 = i - 16 by omega,
          show i - 16 < 8 by omega]
      · simp [g1, g2, g3, show ¬ i - 8 < 8 by omega, show ¬ i - 8 - 8 < 8 by omega,
          show i - 8 - 8 - 8 = i - 24 by omega]

/-- The bytes of a 16-bit word read back as the word. -/
theorem word16_bytes (w : BitVec 16) : word16 (w.setWidth 8) ((w >>> 8).setWidth 8) = w := by
  apply BitVec.eq_of_getLsbD_eq
  intro i hi
  rw [word16_getLsbD]
  split
  · simp [*]
  · simp only [BitVec.getLsbD_setWidth, BitVec.getLsbD_ushiftRight, show 8 + (i - 8) = i by omega]
    simp; omega

/-- The bytes of a 32-bit word read back as the word. -/
theorem word32_bytes (w : BitVec 32) :
    word32 (w.setWidth 8) ((w >>> 8).setWidth 8) ((w >>> 16).setWidth 8) ((w >>> 24).setWidth 8) = w := by
  apply BitVec.eq_of_getLsbD_eq
  intro i hi
  rw [word32_getLsbD]
  simp only [BitVec.getLsbD_setWidth, BitVec.getLsbD_ushiftRight]
  split
  · simp [*]
  · split
    · rw [show 8 + (i - 8) = i by omega]; simp; omega
    · split
      · rw [show 16 + (i - 16) = i by omega]; simp; omega
      · rw [show 24 + (i - 24) = i by omega]; simp; omega

end Sys2Proof.Machine
end

