-- ==== Sys2Proof/Laws/Groups.lean ====
section
/-! SUPPORT. The link groups and the one spec lemma of each move of a gain: who moves, and where to (R86 to R95). -/

namespace Sys2Proof.Machine

/-! ### Groups -/

theorem mem_allProgs (p : Prog) : p ∈ allProgs := by revert p; decide

theorem State.sameGroup_iff (s : State) (p q : Prog) : s.sameGroup p q = true ↔
    ∀ k, k < 7 → min p.val q.val ≤ k → k < max p.val q.val → s.link k = true := by
  simp only [State.sameGroup, List.all_eq_true, List.mem_range, Bool.or_eq_true, Bool.not_eq_true', Bool.and_eq_false_imp,
    decide_eq_true_eq, decide_eq_false_iff_not]
  constructor
  · intro h k hk h1 h2
    exact (h k hk).resolve_left fun g => absurd h2 (g h1)
  · intro h k hk
    by_cases h1 : min p.val q.val ≤ k ∧ k < max p.val q.val
    · exact .inr (h k hk h1.1 h1.2)
    · exact .inl fun g g2 => h1 ⟨g, g2⟩

@[simp] theorem State.sameGroup_refl (s : State) (p : Prog) : s.sameGroup p p = true := by
  rw [State.sameGroup_iff]; omega

theorem State.sameGroup_comm (s : State) (p q : Prog) : s.sameGroup p q = s.sameGroup q p := by
  simp only [State.sameGroup, Nat.min_comm, Nat.max_comm]

theorem State.sameGroup_trans {s : State} {p q r : Prog} (h1 : s.sameGroup p q = true) (h2 : s.sameGroup q r = true) :
    s.sameGroup p r = true := by
  rw [State.sameGroup_iff] at *
  intro k hk g1 g2
  by_cases h : min p.val q.val ≤ k ∧ k < max p.val q.val
  · exact h1 k hk h.1 h.2
  · exact h2 k hk (by omega) (by omega)

/-- Grouping depends on the links alone. -/
theorem State.sameGroup_congr {s t : State} (h : t.links = s.links) (p q : Prog) : t.sameGroup p q = s.sameGroup p q := by
  simp only [State.sameGroup, State.link, h]

@[simp] theorem State.mem_activeGroup (s : State) (p q : Prog) :
    q ∈ s.activeGroup p ↔ s.sameGroup p q = true ∧ (s.prog q).mode = .active := by
  simp [State.activeGroup, mem_allProgs]

/-- Two members of a group see the same ACTIVE members. -/
theorem State.activeGroup_eq {s : State} {p q : Prog} (h : s.sameGroup p q = true) : s.activeGroup p = s.activeGroup q := by
  simp only [State.activeGroup]
  congr 1
  ext r
  congr 1
  rw [Bool.eq_iff_iff]
  exact ⟨fun g => s.sameGroup_trans (by rwa [s.sameGroup_comm]) g, fun g => s.sameGroup_trans h g⟩

/-! ### The intersection -/

theorem State.groupMin_ge {s : State} {p q : Prog} (h : q ∈ s.activeGroup p) : (s.prog q).profile.gainMin ≤ s.groupMin p := by
  simp only [State.groupMin]
  suffices ∀ (l : List Prog) (a : Int), a ≤ l.foldl (fun lo q => max lo (s.prog q).profile.gainMin) a ∧
      (q ∈ l → (s.prog q).profile.gainMin ≤ l.foldl (fun lo q => max lo (s.prog q).profile.gainMin) a) from
    (this _ _).2 h
  intro l
  induction l with
  | nil => simp
  | cons x xs ih =>
    intro a
    have := ih (max a (s.prog x).profile.gainMin)
    refine ⟨le_trans (le_max_left _ _) this.1, fun hq => ?_⟩
    rcases List.mem_cons.1 hq with rfl | hq
    · exact le_trans (le_max_right _ _) this.1
    · exact this.2 hq

theorem State.groupMax_le {s : State} {p q : Prog} (h : q ∈ s.activeGroup p) : s.groupMax p ≤ (s.prog q).profile.gainMax := by
  simp only [State.groupMax]
  suffices ∀ (l : List Prog) (a : Int), l.foldl (fun hi q => min hi (s.prog q).profile.gainMax) a ≤ a ∧
      (q ∈ l → l.foldl (fun hi q => min hi (s.prog q).profile.gainMax) a ≤ (s.prog q).profile.gainMax) from
    (this _ _).2 h
  intro l
  induction l with
  | nil => simp
  | cons x xs ih =>
    intro a
    have := ih (min a (s.prog x).profile.gainMax)
    refine ⟨le_trans this.1 (min_le_left _ _), fun hq => ?_⟩
    rcases List.mem_cons.1 hq with rfl | hq
    · exact le_trans this.1 (min_le_right _ _)
    · exact this.2 hq

/-- The lower end is some ACTIVE member's gain_min, where every gain_min is at least -2400 and there is a member. -/
theorem State.groupMin_eq {s : State} {p r : Prog} (hr : r ∈ s.activeGroup p)
    (h : ∀ q, -2400 ≤ (s.prog q).profile.gainMin) : ∃ q ∈ s.activeGroup p, s.groupMin p = (s.prog q).profile.gainMin := by
  simp only [State.groupMin]
  suffices ∀ (l : List Prog) (a : Int), l.foldl (fun lo q => max lo (s.prog q).profile.gainMin) a = a ∨
      ∃ q ∈ l, l.foldl (fun lo q => max lo (s.prog q).profile.gainMin) a = (s.prog q).profile.gainMin by
    rcases this (s.activeGroup p) (-2400) with g | g
    · have h1 := State.groupMin_ge hr
      simp only [State.groupMin] at h1
      rw [g] at h1 ⊢
      exact ⟨r, hr, le_antisymm (h r) h1⟩
    · exact g
  intro l
  induction l with
  | nil => simp
  | cons x xs ih =>
    intro a
    rcases ih (max a (s.prog x).profile.gainMin) with g | ⟨q, hq, g⟩
    · rcases max_choice a (s.prog x).profile.gainMin with m | m
      · exact .inl (by simpa [m] using g)
      · exact .inr ⟨x, by simp, by simpa [m] using g⟩
    · exact .inr ⟨q, by simp [hq], g⟩

/-- The upper end is some ACTIVE member's gain_max, where every gain_max is at most 1200 and there is a member. -/
theorem State.groupMax_eq {s : State} {p r : Prog} (hr : r ∈ s.activeGroup p)
    (h : ∀ q, (s.prog q).profile.gainMax ≤ 1200) : ∃ q ∈ s.activeGroup p, s.groupMax p = (s.prog q).profile.gainMax := by
  simp only [State.groupMax]
  suffices ∀ (l : List Prog) (a : Int), l.foldl (fun hi q => min hi (s.prog q).profile.gainMax) a = a ∨
      ∃ q ∈ l, l.foldl (fun hi q => min hi (s.prog q).profile.gainMax) a = (s.prog q).profile.gainMax by
    rcases this (s.activeGroup p) 1200 with g | g
    · have h1 := State.groupMax_le hr
      simp only [State.groupMax] at h1
      rw [g] at h1 ⊢
      exact ⟨r, hr, le_antisymm h1 (h r)⟩
    · exact g
  intro l
  induction l with
  | nil => simp
  | cons x xs ih =>
    intro a
    rcases ih (min a (s.prog x).profile.gainMax) with g | ⟨q, hq, g⟩
    · rcases min_choice a (s.prog x).profile.gainMax with m | m
      · exact .inl (by simpa [m] using g)
      · exact .inr ⟨x, by simp, by simpa [m] using g⟩
    · exact .inr ⟨q, by simp [hq], g⟩

/-- Slots in range make an intersection that is never empty: it holds 0. -/
theorem State.zero_in_group (s : State) (p : Prog) (h : ∀ q, (s.prog q).profile.gainMin ≤ 0 ∧ 0 ≤ (s.prog q).profile.gainMax) :
    s.groupMin p ≤ 0 ∧ 0 ≤ s.groupMax p := by
  simp only [State.groupMin, State.groupMax]
  generalize s.activeGroup p = l
  suffices ∀ (l : List Prog) (a b : Int), a ≤ 0 → 0 ≤ b →
      l.foldl (fun lo q => max lo (s.prog q).profile.gainMin) a ≤ 0 ∧
      0 ≤ l.foldl (fun hi q => min hi (s.prog q).profile.gainMax) b from this l _ _ (by omega) (by omega)
  intro l
  induction l with
  | nil => exact fun a b ha hb => ⟨ha, hb⟩
  | cons x xs ih =>
    intro a b ha hb
    have := h x
    exact ih _ _ (show max a _ ≤ 0 by omega) (show 0 ≤ min b _ by omega)

theorem limit_eq {lo hi x : Int} (h1 : lo ≤ x) (h2 : x ≤ hi) : limit lo hi x = x := by
  simp only [limit]; omega

theorem limit_bounds {lo hi : Int} (h : lo ≤ hi) (x : Int) : lo ≤ limit lo hi x ∧ limit lo hi x ≤ hi := by
  simp only [limit]; omega

/-! ### The moves -/

@[simp] theorem State.prog_moveGroup (s : State) (p : Prog) (g : Int) (q : Prog) :
    (s.moveGroup p g).prog q = if q ∈ s.activeGroup p then (s.prog q).moveGain g else s.prog q := by
  simp only [State.moveGroup, State.prog_mapProgs]

/-- A move of a gain keeps all but Gcur and the ramp. -/
theorem Programme.moveGain_frame (g : Int) (P : Programme) :
    P.moveGain g = { P with gcur := (P.moveGain g).gcur, out := (P.moveGain g).out } := by
  simp only [Programme.moveGain]
  split
  · rfl
  · split <;> rfl

@[simp] theorem Programme.moveGain_gcur (g : Int) (P : Programme) : (P.moveGain g).gcur = g := by
  simp only [Programme.moveGain]
  split
  · assumption
  · split <;> rfl

/-- The ramp that a move of a gain starts (R85, R104). -/
theorem Programme.moveGain_out (g : Int) (P : Programme) :
    (P.moveGain g).out = if P.gcur = g ∨ P.mode = .off then P.out else P.out.startRamp (factor g) := by
  by_cases h : P.gcur = g
  · simp [Programme.moveGain, h]
  · by_cases h2 : P.mode = .off <;> simp [Programme.moveGain, h, h2]

@[simp] theorem Programme.moveGain_mode (g : Int) (P : Programme) : (P.moveGain g).mode = P.mode := by
  rw [P.moveGain_frame g]

@[simp] theorem Programme.moveGain_profile (g : Int) (P : Programme) : (P.moveGain g).profile = P.profile := by
  rw [P.moveGain_frame g]; rfl

/-- A gain that has its value moves nothing. -/
theorem Programme.moveGain_self (P : Programme) : P.moveGain P.gcur = P := by simp [Programme.moveGain]

/-- The joining value of a group that has an ACTIVE member: the lowest of their gains, limited into the intersection (R89). -/
theorem State.joiningValue_some {s : State} {p r : Prog} (hr : r ∈ s.activeGroup p) :
    ∃ low ∈ s.activeGroup p, (∀ q ∈ s.activeGroup p, (s.prog low).gcur ≤ (s.prog q).gcur) ∧
      s.joiningValue p = some (s.intoGroup p (s.prog low).gcur) := by
  simp only [State.joiningValue]
  have hne : (s.activeGroup p).map (fun q => (s.prog q).gcur) ≠ [] := by
    intro h; simp at h; rw [h] at hr; simp at hr
  cases hm : ((s.activeGroup p).map fun q => (s.prog q).gcur).min? with
  | none => simp [List.min?_eq_none_iff] at hm; rw [hm] at hr; simp at hr
  | some m =>
    rw [List.min?_eq_some_iff] at hm
    obtain ⟨⟨low, hl, rfl⟩, h⟩ := by simpa only [List.mem_map] using hm
    exact ⟨low, hl, fun q hq => h _ ⟨q, hq, rfl⟩, rfl⟩

/-- Joining where there is an ACTIVE member is one move of the group. -/
theorem State.joinGroup_some {s : State} {p r : Prog} (hr : r ∈ s.activeGroup p) :
    ∃ low ∈ s.activeGroup p, (∀ q ∈ s.activeGroup p, (s.prog low).gcur ≤ (s.prog q).gcur) ∧
      s.joinGroup p = s.moveGroup p (s.intoGroup p (s.prog low).gcur) := by
  obtain ⟨low, h1, h2, h3⟩ := State.joiningValue_some hr
  exact ⟨low, h1, h2, by rw [State.joinGroup, h3]⟩

/-- Joining a group with no ACTIVE member does nothing. -/
theorem State.joinGroup_none {s : State} {p : Prog} (h : s.activeGroup p = []) : s.joinGroup p = s := by
  simp [State.joinGroup, State.joiningValue, h]

/-- Joining, in every case, moves the ACTIVE members to some one gain and leaves the others. -/
theorem State.joinGroup_cases (s : State) (p : Prog) : s.joinGroup p = s ∨ ∃ g, s.joinGroup p = s.moveGroup p g := by
  simp only [State.joinGroup]
  split
  · exact .inr ⟨_, rfl⟩
  · exact .inl rfl

/-- The clamp of R94 by the mode of its programme. -/
theorem State.clampGain_eq (s : State) (p : Prog) :
    ((s.prog p).mode = .active → s.clampGain p = s.moveGroup p (s.intoGroup p (s.prog p).gcur)) ∧
    ((s.prog p).mode = .measure → s.clampGain p = s) ∧
    ((s.prog p).mode = .off → s.clampGain p =
      s.onProg p (Programme.moveGain (limit (s.prog p).profile.gainMin (s.prog p).profile.gainMax (s.prog p).gcur))) := by
  refine ⟨fun h => ?_, fun h => ?_, fun h => ?_⟩ <;> simp only [State.clampGain, h]

/-- What a change of the slot in service leaves of each programme: the index, the gain and the ramp. -/
theorem State.prog_switchSlot (s : State) (p q : Prog) :
    (s.switchSlot p).prog q = { s.prog q with
      inService := if q = p then otherSlot (s.prog p).inService else (s.prog q).inService
      gcur := ((s.switchSlot p).prog q).gcur
      out := ((s.switchSlot p).prog q).out } := by
  simp only [State.switchSlot]
  generalize hs1 : (s.onProg p fun P => { P with inService := otherSlot P.inService }).fire .slotSwitched = s1
  have h1 : ∀ q, s1.prog q = { s.prog q with
      inService := if q = p then otherSlot (s.prog p).inService else (s.prog q).inService } := by
    intro q; rw [← hs1]; simp; split <;> simp [*]
  have h2 : (s1.clampGain p).prog q = { s1.prog q with
      gcur := ((s1.clampGain p).prog q).gcur, out := ((s1.clampGain p).prog q).out } := by
    simp only [State.clampGain]
    split
    · rw [State.prog_moveGroup]; split
      · exact Programme.moveGain_frame _ _
      · rfl
    · rfl
    · rw [State.prog_onProg]; split
      · exact Programme.moveGain_frame _ _
      · rfl
  rw [h2, h1]

/-- The event of a change of slot reaches the stations; the clamp fires nothing. -/
theorem State.notice_switchSlot (s : State) (p : Prog) (q : Port) :
    (s.switchSlot p).notice q =
      { s.notice q with pending := (s.notice q).pending ||| ((s.notice q).mask &&& Source.slotSwitched.bit) } := by
  have h : ∀ u : State, (u.clampGain p).notice q = u.notice q := by
    intro u; simp only [State.clampGain]; split <;> rfl
  simp only [State.switchSlot, h, State.notice_fire, State.notice_onProg]

/-! ### What the moves read: the programmes and the links alone -/

theorem State.progs_mapProgs_congr {u v : State} (f : Prog → Programme → Programme) (h : u.progs = v.progs) :
    (u.mapProgs f).progs = (v.mapProgs f).progs := by simp only [State.mapProgs, State.prog, h]

theorem State.progs_onProg_congr {u v : State} (p : Prog) (f : Programme → Programme) (h : u.progs = v.progs) :
    (u.onProg p f).progs = (v.onProg p f).progs := by simp only [State.onProg, State.progs_mapProgs_congr _ h]

theorem State.activeGroup_congr {u v : State} (h : u.progs = v.progs) (hl : u.links = v.links) (p : Prog) :
    u.activeGroup p = v.activeGroup p := by
  have hp : u.prog = v.prog := by funext q; simp only [State.prog, h]
  have hs : u.sameGroup p = v.sameGroup p := by funext q; exact State.sameGroup_congr hl p q
  rw [State.activeGroup, State.activeGroup, hp, hs]

theorem State.intoGroup_congr {u v : State} (h : u.progs = v.progs) (hl : u.links = v.links) (p : Prog) (g : Int) :
    u.intoGroup p g = v.intoGroup p g := by
  simp only [State.intoGroup, State.groupMin, State.groupMax, State.activeGroup_congr h hl, State.prog, h]

theorem State.progs_moveGroup_congr {u v : State} (h : u.progs = v.progs) (hl : u.links = v.links) (p : Prog) (g : Int) :
    (u.moveGroup p g).progs = (v.moveGroup p g).progs := by
  simp only [State.moveGroup, State.activeGroup_congr h hl]
  exact State.progs_mapProgs_congr _ h

theorem State.progs_clampGain_congr {u v : State} (h : u.progs = v.progs) (hl : u.links = v.links) (p : Prog) :
    (u.clampGain p).progs = (v.clampGain p).progs := by
  have hp : u.prog p = v.prog p := by simp only [State.prog, h]
  simp only [State.clampGain, hp]
  split
  · rw [State.intoGroup_congr h hl]
    exact State.progs_moveGroup_congr h hl _ _
  · exact h
  · exact State.progs_onProg_congr _ _ h

theorem State.progs_joinGroup_congr {u v : State} (h : u.progs = v.progs) (hl : u.links = v.links) (p : Prog) :
    (u.joinGroup p).progs = (v.joinGroup p).progs := by
  have hj : u.joiningValue p = v.joiningValue p := by
    have : u.intoGroup p = v.intoGroup p := by funext g; exact State.intoGroup_congr h hl p g
    simp only [State.joiningValue, State.activeGroup_congr h hl, this, State.prog, h]
  simp only [State.joinGroup, hj]
  split
  · exact State.progs_moveGroup_congr h hl _ _
  · exact h

theorem State.progs_switchSlot_congr {u v : State} (h : u.progs = v.progs) (hl : u.links = v.links) (p : Prog) :
    (u.switchSlot p).progs = (v.switchSlot p).progs := by
  simp only [State.switchSlot]
  refine State.progs_clampGain_congr ?_ ?_ p
  · simp only [State.fire_progs]
    exact State.progs_onProg_congr _ _ h
  · exact hl

/-- Joining a group changes nothing but the programmes. -/
theorem State.joinGroup_frame (s : State) (p : Prog) : s.joinGroup p = { s with progs := (s.joinGroup p).progs } := by
  simp only [State.joinGroup]
  split <;> rfl

/-- A clamp changes nothing but the programmes. -/
theorem State.clampGain_frame (s : State) (p : Prog) : s.clampGain p = { s with progs := (s.clampGain p).progs } := by
  simp only [State.clampGain]
  split <;> rfl

/-- Slots in range, gains in their bounds and one gain in the group: a new slot in service limits the group's gain by its own bounds
alone (R94). -/
theorem State.intoGroup_of_switch {s : State} (h : s.GainsSound) (p : Prog) (i : Slot) (ha : (s.prog p).mode = .active) :
    (s.onProg p fun P => { P with inService := i }).intoGroup p (s.prog p).gcur =
      max (s.prog p).slots[i].gainMin (min (s.prog p).slots[i].gainMax (s.prog p).gcur) := by
  generalize hu : (s.onProg p fun P => { P with inService := i }) = u
  have hup : u.prog p = { s.prog p with inService := i } := by simp [← hu]
  have hpm : p ∈ u.activeGroup p := by rw [State.mem_activeGroup]; simp [hup, ha]
  have hr : ∀ q, (u.prog q).profile.InRange := by
    intro q
    have := (h.1 q).1
    rw [← hu, State.prog_onProg]
    split
    · exact this i
    · exact this _
  obtain ⟨a, ha1, ha2⟩ := State.groupMin_eq hpm (fun q => (hr q).2.2.2.2.1)
  obtain ⟨b, hb1, hb2⟩ := State.groupMax_eq hpm (fun q => (hr q).2.2.2.2.2.2.2.1)
  have z := u.zero_in_group p (fun q => ⟨(hr q).2.2.2.2.2.1, (hr q).2.2.2.2.2.2.1⟩)
  have g1 := State.groupMin_ge hpm
  have g2 := State.groupMax_le hpm
  have hprof : (u.prog p).profile = (s.prog p).slots[i] := by rw [hup]; rfl
  have hoth : ∀ q ∈ u.activeGroup p, q ≠ p →
      (u.prog q).profile.gainMin ≤ (s.prog p).gcur ∧ (s.prog p).gcur ≤ (u.prog q).profile.gainMax := by
    intro q hq hqp
    have hl : u.links = s.links := by rw [← hu]; rfl
    have hv : u.prog q = s.prog q := by simp [← hu, hqp]
    rw [State.mem_activeGroup, hv, State.sameGroup_congr hl] at hq
    rw [hv, h.2 p q ha hq.2 hq.1]
    exact ⟨(h.1 q).2.1, (h.1 q).2.2.1⟩
  rw [hprof] at g1 g2
  simp only [State.intoGroup, limit]
  have c1 : u.groupMin p = (s.prog p).slots[i].gainMin ∨ u.groupMin p ≤ (s.prog p).gcur := by
    by_cases e : a = p
    · left; rw [ha2, e, hprof]
    · right; rw [ha2]; exact (hoth a ha1 e).1
  have c2 : u.groupMax p = (s.prog p).slots[i].gainMax ∨ (s.prog p).gcur ≤ u.groupMax p := by
    by_cases e : b = p
    · left; rw [hb2, e, hprof]
    · right; rw [hb2]; exact (hoth b hb1 e).2
  have hri := hr p
  rw [hprof] at hri
  obtain ⟨-, -, -, -, r1, r2, r3, r4, -⟩ := hri
  omega

/-- Where the gains are sound, a change of slot makes of each programme what R94 and R140 say. -/
theorem State.switchSlot_switched {s : State} (h : s.GainsSound) (p q : Prog) :
    (s.switchSlot p).prog q = s.switched p (otherSlot (s.prog p).inService) q := by
  generalize hi : otherSlot (s.prog p).inService = i
  have ep : (s.onProg p fun P => { P with inService := otherSlot P.inService }) =
      s.onProg p fun P => { P with inService := i } :=
    State.ext_fields rfl rfl rfl rfl rfl rfl (State.progs_ext fun q => by rw [← hi]; simp; split <;> simp [*])
      rfl rfl rfl rfl rfl rfl rfl rfl rfl
  have e1 : (s.switchSlot p).prog q = ((s.onProg p fun P => { P with inService := i }).clampGain p).prog q := by
    simp only [State.switchSlot, ep]
    exact congrArg (·[q]) (State.progs_clampGain_congr
      (u := (s.onProg p fun P => { P with inService := i }).fire .slotSwitched) (v := s.onProg p fun P => { P with inService := i }) rfl rfl p)
  rw [e1]
  generalize hu : (s.onProg p fun P => { P with inService := i }) = u
  have hp : u.prog p = { s.prog p with inService := i } := by simp [← hu]
  have hq : u.prog q = if q = p then { s.prog q with inService := i } else s.prog q := by simp [← hu]
  have hm : ∀ r, (u.prog r).mode = (s.prog r).mode := by intro r; simp [← hu]; split <;> simp [*]
  have hl : u.links = s.links := by rw [← hu]; rfl
  obtain ⟨c1, c2, c3⟩ := u.clampGain_eq p
  have hgc : (u.prog p).gcur = (s.prog p).gcur := by rw [hp]
  have hprof : (u.prog p).profile = (s.prog p).slots[i] := by rw [hp]; rfl
  rw [hm] at c1 c2 c3
  rcases hmode : (s.prog p).mode with _ | _ | _
  · rw [c3 hmode, State.prog_onProg, hprof, hgc]
    by_cases e : q = p
    · subst e
      simp [State.switched, hmode, hp, Programme.moveGain, limit]
    · simp [State.switched, hmode, e, hq]
  · rw [c2 hmode, hq]
    simp [State.switched, hmode]
  · rw [c1 hmode, State.prog_moveGroup, hgc]
    have hg := State.intoGroup_of_switch h p i hmode
    rw [hu] at hg
    rw [hg]
    simp only [State.mem_activeGroup, State.sameGroup_congr hl, hm, State.switched, hmode, true_and]
    by_cases e : s.sameGroup p q = true ∧ (s.prog q).mode = .active
    · have hgq : (s.prog q).gcur = (s.prog p).gcur := (h.2 p q hmode e.2 e.1).symm
      rw [if_pos e, if_pos ⟨by split <;> simp [e.2], e.1⟩, hq]
      have hgu : (if q = p then { s.prog q with inService := i } else s.prog q).gcur = (s.prog p).gcur := by split <;> exact hgq
      have hmu : (if q = p then { s.prog q with inService := i } else s.prog q).mode ≠ .off := by
        split <;> simp [e.2]
      simp only [Programme.moveGain, hgu, hmu, if_false]
      by_cases g : (s.prog p).gcur = max (s.prog p).slots[i].gainMin (min (s.prog p).slots[i].gainMax (s.prog p).gcur)
      · rw [if_pos g, if_pos g.symm, ← g, ← hgu]
      · simp only [if_neg g, if_neg (Ne.symm g), OutputStage.startRamp]
    · have e' : ¬((if q = p then { s.prog q with inService := i } else s.prog q).mode = .active ∧ s.sameGroup p q = true) := by
        rintro ⟨a, b⟩
        refine e ⟨b, ?_⟩
        split at a <;> exact a
      rw [if_neg e, if_neg e', hq]
      simp

end Sys2Proof.Machine
end

