-- ==== Sys2Proof/Laws/Frames.lean ====
section
/-! SUPPORT. What a frame, a completion and a capture can change, said once (R22 to R34, R107, R151, R152). -/

namespace Sys2Proof.Machine

/-! ### What is due -/

theorem State.dueEvents_nil {s : State} (h : s.dueEvents = []) :
    (∀ p, (s.prog p).out.rampDone = false) ∧ (∀ p, (s.prog p).front.due = false) ∧ s.tickDue = false := by
  simp only [State.dueEvents, List.append_eq_nil_iff, List.map_eq_nil_iff, List.filter_eq_nil_iff] at h
  refine ⟨fun p => by simpa using h.1.1 p (mem_allProgs p), fun p => by simpa using h.1.2 p (mem_allProgs p), ?_⟩
  have := h.2
  by_contra hc
  simp [hc] at this

/-- A completion that is not due does nothing. -/
theorem State.complete_of_not_due {s : State} {p : Prog} (h : (s.prog p).front.due = false) : s.complete p = s := by
  simp [State.complete, h]

/-- With nothing due there is nothing to carry out. -/
theorem State.carryOut_of_not_due {s : State} (h : s.dueEvents = []) : s.carryOut = s := by
  obtain ⟨h1, h2, h3⟩ := State.dueEvents_nil h
  have hm : (s.mapProgs fun _ P => { P with out := P.out.endRamp }) = s := by
    refine State.ext_fields rfl rfl rfl rfl rfl rfl (State.progs_ext fun p => ?_) rfl rfl rfl rfl rfl rfl rfl rfl rfl
    simp [OutputStage.endRamp, h1]
  have hc : ∀ l : List Prog, l.foldl State.complete s = s := by
    intro l
    induction l with
    | nil => rfl
    | cons x xs ih => simp [State.complete_of_not_due (h2 x), ih]
  simp only [State.carryOut, hm, hc]
  simp [State.tick, h3]

/-! ### The frame -/

/-- What a frame leaves: each programme's own step, the output frame, the divider's count and OUTPUT_CLIPPED. -/
theorem State.takeFrame_frame (s : State) (slots : Vector TdmWord 16) :
    let result := fun p => (s.prog p).frame (inputPair slots p)
    s.takeFrame slots = { s with
      frameOpen := false
      tdmOut := some (outputSlots fun p => (result p).2.1)
      scan := { s.scan with count := s.scan.count - 1 }
      progs := (s.takeFrame slots).progs
      notices := (s.takeFrame slots).notices } ∧
    (∀ p, (s.takeFrame slots).prog p = (result p).1) ∧
    ∀ q, (s.takeFrame slots).notice q = { s.notice q with
      pending := (s.notice q).pending |||
        ((s.notice q).mask &&& Source.outputClipped.bitIf (allProgs.any fun p => (result p).2.2)) } := by
  intro result
  refine ⟨?_, fun p => ?_, fun q => ?_⟩
  · simp only [State.takeFrame, State.fireIf]
    split <;> rfl
  · simp only [State.takeFrame, State.prog_fireIf]
    exact State.prog_mapProgs s (fun p _ => (result p).1) p
  · simp only [State.takeFrame, State.notice_fireIf]
    rfl

/-- The slots that carry a programme's pair (R2). -/
theorem outputSlots_pair (sent : Prog → Pair) (p : Prog) :
    (outputSlots sent)[2 * p.val] = slotOf (sent p).l ∧ (outputSlots sent)[2 * p.val + 1] = slotOf (sent p).r := by
  have h1 : (2 * p.val) / 2 = p.val := by omega
  have h2 : (2 * p.val) % 2 = 0 := by omega
  have h3 : (2 * p.val + 1) / 2 = p.val := by omega
  have h4 : (2 * p.val + 1) % 2 = 1 := by omega
  simp [outputSlots, h1, h2, h3, h4]

/-- A sample in range is read back from its slot (R1, R2). -/
theorem sampleOf_slotOf (x : Int) (h1 : -8388608 ≤ x) (h2 : x < 8388608) : sampleOf (slotOf x) = x := by
  have : BitVec.extractLsb' 8 24 (BitVec.ofInt 24 x ++ (0 : BitVec 8)) = BitVec.ofInt 24 x := by
    apply BitVec.eq_of_getLsbD_eq
    intro i hi
    simp only [BitVec.getLsbD_extractLsb', BitVec.getLsbD_append]
    simp [hi, show ¬ (8 + i < 8) by omega]
  rw [sampleOf, slotOf, this, BitVec.toInt_ofInt]
  simp only [Int.bmod_def]
  norm_num
  omega

/-- A ramp in progress touches the factor and itself alone. -/
theorem OutputStage.advanceRamp_frame (o : OutputStage) :
    o.advanceRamp = { o with applied := o.advanceRamp.applied, ramp := o.advanceRamp.ramp } := by
  simp only [OutputStage.advanceRamp]
  split <;> rfl

/-! ### Completions -/

/-- A completion that is due: the counter advances on a fresh sub-block, the comparator is consulted, the record is offered (R29). -/
theorem State.complete_of_due {s : State} {p : Prog} (h : (s.prog p).front.due = true) :
    s.complete p =
      ((s.onProg p fun P => { P with front := { P.front.discard with counter := (s.prog p).front.counter + 1 } }).consultSchedule p
        ((s.prog p).front.counter + 1)).enqueue p
        { energy := (s.prog p).front.energy, counter := (s.prog p).front.counter + 1 } := by
  simp only [State.complete, if_pos h]

/-- The energy of a sub-block as its rule gives it (R26). -/
theorem FrontEnd.energy_eq (f : FrontEnd) :
    (f.energy : Int) = min (2 ^ 31 - 1) ⌊((f.sumL + f.sumR : Nat) : ℚ) / (4800 * 2 ^ 32) + 1 / 2⌋ := by
  have : ((f.sumL + f.sumR : Nat) : ℚ) / (4800 * 2 ^ 32) + 1 / 2 =
      ((2 * (f.sumL + f.sumR) + 4800 * 2 ^ 32 : Nat) : ℚ) / ((2 * (4800 * 2 ^ 32) : Nat) : ℚ) := by
    push_cast
    field_simp
    ring
  rw [this, Rat.floor_natCast_div_natCast]
  simp only [FrontEnd.energy, maxEnergy, subBlockFrames]
  omega

/-- Admission touches the queue and the lost count alone, and may fire SUBBLOCK_LOST. -/
theorem State.enqueue_frame (s : State) (p : Prog) (x : SubBlock) :
    s.enqueue p x = { s with progs := (s.enqueue p x).progs, notices := (s.enqueue p x).notices } ∧
    ∀ q, (s.enqueue p x).prog q =
      { s.prog q with queue := ((s.enqueue p x).prog q).queue, lost := ((s.enqueue p x).prog q).lost } := by
  simp only [State.enqueue]
  split
  · exact ⟨rfl, fun _ => rfl⟩
  · split
    · refine ⟨rfl, fun q => ?_⟩
      simp only [State.prog_onProg]
      split <;> rfl
    · refine ⟨rfl, fun q => ?_⟩
      simp only [State.prog_fire, State.prog_onProg]
      split <;> rfl

/-! ### The cue log -/

/-- An entry is stored with the gap mark of the moment, or marks the gap (R152). -/
theorem State.logCue_cases (s : State) (e : CueEntry) :
    (s.cueLog.length < 8 → s.logCue e = { s with cueLog := s.cueLog ++ [{ e with gap := s.gapMark }], gapMark := false }) ∧
    (8 ≤ s.cueLog.length → s.logCue e = ({ s with gapMark := true }).fire .cueOverflow) := by
  constructor <;> intro h
  · simp [State.logCue, cueLogCap, h]
  · simp [State.logCue, cueLogCap, Nat.not_lt.2 h]

/-! ### The filter stages -/

/-- Rounding to the nearest integer with halves away from zero, in its own terms (R23). -/
theorem roundAway_nearest (x : ℚ) :
    |x - roundAway x| ≤ 1 / 2 ∧ (|x - roundAway x| = 1 / 2 → |x| < |(roundAway x : ℚ)|) := by
  have key : ∀ y : ℚ, 0 ≤ y →
      |y - (y + 1 / 2).floor| ≤ 1 / 2 ∧ (|y - (y + 1 / 2).floor| = 1 / 2 → |y| < |((y + 1 / 2).floor : ℚ)|) := by
    intro y hy
    have h1 : ((y + 1 / 2).floor : ℚ) ≤ y + 1 / 2 := Int.floor_le (y + 1 / 2)
    have h2 : y + 1 / 2 < (y + 1 / 2).floor + 1 := Int.lt_floor_add_one (y + 1 / 2)
    refine ⟨abs_le.2 ⟨by linarith, by linarith⟩, fun h => ?_⟩
    rcases abs_eq (by norm_num : (0 : ℚ) ≤ 1 / 2) |>.1 h with h | h
    · linarith
    · rw [abs_of_nonneg hy]
      exact lt_of_lt_of_le (by linarith) (le_abs_self _)
  unfold roundAway
  split
  · rename_i h
    exact key x h
  · rename_i h
    have := key (-x) (by linarith)
    push_cast
    rw [show x - -((-x + 1 / 2).floor : ℚ) = -(-x - ((-x + 1 / 2).floor : ℚ)) by ring, abs_neg, abs_neg, ← abs_neg x]
    exact this

/-- A stage takes its input as R23 and R24 say. -/
theorem StageState.push_takes (c : Biquad) (st : StageState) (x : Int) : st.Takes c x (st.push c x) := by
  refine ⟨rfl, rfl, rfl, _, (roundAway_nearest _).1, (roundAway_nearest _).2, ?_⟩
  simp [StageState.push, limit, weightUnit]

theorem ChannelFilter.push_takes (f : ChannelFilter) (x : Int) : f.Takes x (f.push (256 * x)) :=
  ⟨StageState.push_takes _ _ _, StageState.push_takes _ _ _⟩

end Sys2Proof.Machine
end

