-- ==== Sys2Proof/Laws/ResponseTable.lean ====
section
/-! SUPPORT. R23's table and R24's structure cannot both hold to the letter: no two second-order stages meet the table to the nearest
0.01 dB, and none whose response at 1 kHz rounds to 0.00 dB lie within 0.03 dB of every row. -/

namespace Sys2Proof

open Polynomial

/-- A polynomial whose values alternate in sign at `n + 1` rising points has a degree of at least `n`. -/
theorem degree_of_alternating (q : ℝ[X]) (n : Nat) (x : Nat → ℝ) (hx : ∀ i, i < n → x i < x (i + 1))
    (hs : ∀ i, i < n → q.eval (x i) * q.eval (x (i + 1)) < 0) (hn : 0 < n) : n ≤ q.natDegree := by
  by_contra hlt
  have root : ∀ i : Fin n, ∃ z, x i < z ∧ z < x (i + 1) ∧ q.eval z = 0 := by
    intro i
    have hle := (hx i i.2).le
    have hc : ContinuousOn (fun z => q.eval z) (Set.Icc (x i) (x (i + 1))) := q.continuous.continuousOn
    rcases mul_neg_iff.1 (hs i i.2) with ⟨ha, hb⟩ | ⟨ha, hb⟩
    · obtain ⟨z, hz, h0⟩ := intermediate_value_Ioo' hle hc ⟨hb, ha⟩
      exact ⟨z, hz.1, hz.2, h0⟩
    · obtain ⟨z, hz, h0⟩ := intermediate_value_Ioo hle hc ⟨ha, hb⟩
      exact ⟨z, hz.1, hz.2, h0⟩
  choose z hl hr h0 using root
  have mono : ∀ i j : Nat, i ≤ j → j ≤ n → x i ≤ x j := by
    intro i j hij
    induction j, hij using Nat.le_induction with
    | base => exact fun _ => le_rfl
    | succ j _ ih => exact fun hj => (ih (by omega)).trans (hx j (by omega)).le
  have inj : Function.Injective z := by
    intro i j hij
    by_contra hne
    rcases lt_or_gt_of_ne (fun h => hne (Fin.ext h) : i.val ≠ j.val) with h | h
    · have := mono (i + 1) j h j.2.le
      linarith [hr i, hl j]
    · have := mono (j + 1) i h i.2.le
      linarith [hr j, hl i]
  have hz := Polynomial.eq_zero_of_natDegree_lt_card_of_eval_eq_zero q inj h0 (by simpa using not_le.1 hlt)
  have := hs 0 hn
  simp [hz] at this

/-- A squared magnitude as a polynomial in `1 - cos w`. -/
noncomputable def quadratic (k0 k1 k2 : ℝ) : ℝ[X] :=
  C ((k0 + k1 + k2) ^ 2) - C (2 * k1 * (k0 + k2) + 8 * k0 * k2) * X + C (4 * k0 * k2) * X ^ 2

theorem natDegree_quadratic (k0 k1 k2 : ℝ) : (quadratic k0 k1 k2).natDegree ≤ 2 := by
  unfold quadratic; compute_degree

theorem eval_quadratic (k0 k1 k2 w : ℝ) : (quadratic k0 k1 k2).eval (1 - Real.cos w) = squaredMagnitude k0 k1 k2 w := by
  rw [squaredMagnitude_eq]; simp [quadratic]

/-- The numerator and the denominator of a cascade's power, as polynomials in `1 - cos w`. -/
noncomputable def Biquad.numerator (c d : Biquad) : ℝ[X] := quadratic c.b0 c.b1 c.b2 * quadratic d.b0 d.b1 d.b2

noncomputable def Biquad.denominator (c d : Biquad) : ℝ[X] := quadratic 1 c.a1 c.a2 * quadratic 1 d.a1 d.a2

theorem squaredMagnitude_nonneg (k0 k1 k2 w : ℝ) : 0 ≤ squaredMagnitude k0 k1 k2 w := by
  unfold squaredMagnitude; positivity

/-- The angle of `hz` at 48 kHz. -/
noncomputable def omega (hz : Nat) : ℝ := 2 * Real.pi * hz / 48000

theorem Biquad.power_eq (c d : Biquad) (hz : Nat) : c.power d hz =
    (c.numerator d).eval (1 - Real.cos (omega hz)) / (c.denominator d).eval (1 - Real.cos (omega hz)) := by
  simp only [Biquad.numerator, Biquad.denominator, eval_mul, eval_quadratic, Biquad.power, omega]

theorem Biquad.denominator_pos {c d : Biquad} {hz : Nat} (h : 0 < c.power d hz) :
    0 < (c.denominator d).eval (1 - Real.cos (omega hz)) := by
  have h0 : 0 ≤ (c.denominator d).eval (1 - Real.cos (omega hz)) := by
    simp only [Biquad.denominator, eval_mul, eval_quadratic]
    exact mul_nonneg (squaredMagnitude_nonneg _ _ _ _) (squaredMagnitude_nonneg _ _ _ _)
  refine h0.lt_of_ne fun he => ?_
  rw [Biquad.power_eq, ← he, div_zero] at h
  exact lt_irrefl _ h

/-- A pair that is as near to the table as a pair can be whose response at 1 kHz is bound to the nearest 0.01 dB: it lies above and
below the table in turn at ten of its rows, by more than 0.005 dB at 1 kHz and by more than 0.03 dB at the others. -/
def nearestShelf : Biquad :=
  { b0 := 146417153716996 / 10 ^ 14, b1 := -256345988147508 / 10 ^ 14, b2 := 112935488614607 / 10 ^ 14
    a1 := -165037500918421 / 10 ^ 14, a2 := 68011241394091 / 10 ^ 14 }

/-- The other stage of that pair. -/
def nearestHighPass : Biquad :=
  { b0 := 1, b1 := -199996840932716 / 10 ^ 14, b2 := 99997102784123 / 10 ^ 14
    a1 := -199367991616210 / 10 ^ 14, a2 := 99369370516896 / 10 ^ 14 }

/-- Those ten rows, in order. -/
def alternatingRow : Nat → Nat × Int
  | 0 => (10, -2410)
  | 1 => (20, -1240)
  | 2 => (40, -310)
  | 3 => (60, -120)
  | 4 => (200, -8)
  | 5 => (500, -12)
  | 6 => (1000, 0)
  | 7 => (2000, 162)
  | 8 => (4000, 305)
  | _ => (8000, 368)

/-- How far that pair lies from each of those rows at least, in 0.0005 dB. -/
def alternation (i : Nat) : Nat := if i = 6 then 11 else 61

/-- The response at `hz` is `r + t / 20` or more, or `r - t / 20` or less, by arithmetic. -/
def beyondCheck (c d : Biquad) (hz : Nat) (r : Int) (t : Nat) (above : Bool) : Bool :=
  let p := powerBounds c d (versineAt hz)
  versineOk (angle hz) 8 && decide (0 ≤ (versineAt hz).1) && powerOk c d (versineAt hz) && decide (0 < p.1) &&
  if above then decide (tenPow (20 * r + t) ≤ p.1 ^ 20000) else decide (p.2 ^ 20000 ≤ tenPow (20 * r - t))

theorem beyond_of_check {c d : Biquad} {hz : Nat} {r : Int} {t : Nat} {above : Bool} (h : beyondCheck c d hz r t above = true) :
    0 < c.power d hz ∧ (above = true → (r : ℝ) + t / 20 ≤ 1000 * Real.logb 10 (c.power d hz)) ∧
      (above = false → 1000 * Real.logb 10 (c.power d hz) ≤ (r : ℝ) - t / 20) := by
  simp only [beyondCheck, Bool.and_eq_true, decide_eq_true_eq] at h
  obtain ⟨⟨⟨⟨ok, h0⟩, okp⟩, hp⟩, hl⟩ := h
  have hw := within_powerBounds (c := c) (d := d) ok h0 okp
  have hp' : (0 : ℝ) < (powerBounds c d (versineAt hz)).1 := by exact_mod_cast hp
  refine ⟨hp'.trans_le hw.1, fun ha => ?_, fun ha => ?_⟩
  · rw [if_pos ha, decide_eq_true_eq] at hl
    have := le_logb_of hp hl hw.1
    push_cast at this
    linarith
  · rw [if_neg (by simp [ha]), decide_eq_true_eq] at hl
    have := logb_le_of hl (hp'.trans_le hw.1) hw.2
    push_cast at this
    linarith

theorem nearest_alternates : ∀ i < 10,
    beyondCheck nearestShelf nearestHighPass (alternatingRow i).1 (alternatingRow i).2 (alternation i) (i % 2 == 0) = true := by
  decide +kernel

theorem alternatingRow_rises : ∀ i < 9,
    (versineAt (alternatingRow i).1).2 < (versineAt (alternatingRow (i + 1)).1).1 ∧
    versineOk (angle (alternatingRow i).1) 8 = true ∧ versineOk (angle (alternatingRow (i + 1)).1) 8 = true := by
  decide +kernel

theorem alternatingRow_mem : ∀ i < 10, alternatingRow i ∈ responseTable := by decide

/-- `a / b < p / q` in the logarithm, multiplied out. -/
theorem cross_lt {a b p q : ℝ} (hb : 0 < b) (hq : 0 < q) (h1 : 0 < a / b) (h2 : 0 < p / q)
    (h : Real.logb 10 (a / b) < Real.logb 10 (p / q)) : a * q < p * b :=
  (div_lt_div_iff₀ hb hq).1 ((Real.logb_lt_logb_iff (by norm_num) h1 h2).1 h)

theorem Biquad.natDegree_numerator (c d : Biquad) : (c.numerator d).natDegree ≤ 4 :=
  natDegree_mul_le.trans (Nat.add_le_add (natDegree_quadratic _ _ _) (natDegree_quadratic _ _ _))

theorem Biquad.natDegree_denominator (c d : Biquad) : (c.denominator d).natDegree ≤ 4 :=
  natDegree_mul_le.trans (Nat.add_le_add (natDegree_quadratic _ _ _) (natDegree_quadratic _ _ _))

/-- At `hz`, a power of numerator `n` and denominator `d` lies within `tol` of `r`, both in 0.01 dB. -/
def PowerResponds (n d : ℝ[X]) (hz : Nat) (r : Int) (tol : ℝ) : Prop :=
  let u := 1 - Real.cos (omega hz)
  0 < d.eval u ∧ 0 < n.eval u / d.eval u ∧ |1000 * Real.logb 10 (n.eval u / d.eval u) - (r : ℝ)| ≤ tol

/-- Whatever its coefficients, real ones among them, and however its two stages are coupled: a linear filter over two latest inputs and
outputs of each of two stages has a power that is a quotient of two polynomials in `1 - cos w` of degree 4 at most. None that rounds to
0.00 dB at 1 kHz comes within 0.03 dB of every row of the table. -/
theorem no_power_of_degree_four (n d : ℝ[X]) (hn : n.natDegree ≤ 4) (hd : d.natDegree ≤ 4)
    (h0 : PowerResponds n d 1000 0 (1 / 2)) (h : ∀ row ∈ responseTable, PowerResponds n d row.1 row.2 3) : False := by
  have tight : ∀ i < 10, let u := 1 - Real.cos (omega (alternatingRow i).1)
      0 < d.eval u ∧ 0 < n.eval u / d.eval u ∧
        |1000 * Real.logb 10 (n.eval u / d.eval u) - ((alternatingRow i).2 : ℝ)| < (alternation i : ℝ) / 20 := by
    intro i hi
    by_cases h6 : i = 6
    · subst h6
      refine ⟨h0.1, h0.2.1, h0.2.2.trans_lt ?_⟩
      norm_num [alternation]
    · obtain ⟨h1, h2, h3⟩ := h _ (alternatingRow_mem i hi)
      refine ⟨h1, h2, h3.trans_lt ?_⟩
      norm_num [alternation, h6]
  let x : Nat → ℝ := fun i => 1 - Real.cos (omega (alternatingRow i).1)
  let q : ℝ[X] := n * nearestShelf.denominator nearestHighPass - nearestShelf.numerator nearestHighPass * d
  have deg : q.natDegree ≤ 8 :=
    natDegree_sub_le_of_le (natDegree_mul_le.trans (Nat.add_le_add hn (Biquad.natDegree_denominator _ _)))
      (natDegree_mul_le.trans (Nat.add_le_add (Biquad.natDegree_numerator _ _) hd))
  have sign : ∀ i < 10, (i % 2 = 0 → q.eval (x i) < 0) ∧ (i % 2 = 1 → 0 < q.eval (x i)) := by
    intro i hi
    obtain ⟨d1, hp, hb⟩ := tight i hi
    obtain ⟨hr, ha, hc⟩ := beyond_of_check (nearest_alternates i hi)
    have hb := abs_lt.1 hb
    have d2 := Biquad.denominator_pos hr
    rw [Biquad.power_eq] at hr ha hc
    simp only [q, x, eval_sub, eval_mul]
    constructor
    · intro he
      have := cross_lt d1 d2 hp hr (by linarith [hb.2, ha (by simp [he])])
      linarith
    · intro he
      have := cross_lt d2 d1 hr hp (by linarith [hb.1, hc (by simp [he])])
      linarith
  have rise : ∀ i, i < 9 → x i < x (i + 1) := by
    intro i hi
    obtain ⟨hlt, o1, o2⟩ := alternatingRow_rises i hi
    have h1 := (within_versineAt o1).2
    have h2 := (within_versineAt o2).1
    have hlt : ((versineAt (alternatingRow i).1).2 : ℝ) < (versineAt (alternatingRow (i + 1)).1).1 := by exact_mod_cast hlt
    exact (h1.trans_lt hlt).trans_le h2
  have alt : ∀ i, i < 9 → q.eval (x i) * q.eval (x (i + 1)) < 0 := by
    intro i hi
    obtain ⟨a, b⟩ := sign i (by omega)
    obtain ⟨a', b'⟩ := sign (i + 1) (by omega)
    rcases Nat.mod_two_eq_zero_or_one i with he | he
    · exact mul_neg_of_neg_of_pos (a he) (b' (by omega))
    · exact mul_neg_of_pos_of_neg (b he) (a' (by omega))
  have := degree_of_alternating q 9 x rise alt (by norm_num)
  omega

/-- No two second-order stages whose response at 1 kHz rounds to 0.00 dB come within 0.03 dB of every row of the table. -/
theorem Biquad.no_pair_within_three (c d : Biquad) (h0 : c.Responds d 1000 0 (1 / 2))
    (h : ∀ row ∈ responseTable, c.Responds d row.1 row.2 3) : False := by
  have power : ∀ {hz : Nat} {r : Int} {tol : ℚ}, c.Responds d hz r tol →
      PowerResponds (c.numerator d) (c.denominator d) hz r tol := by
    intro hz r tol hr
    refine ⟨Biquad.denominator_pos hr.1, ?_⟩
    rw [← Biquad.power_eq]
    exact hr
  refine no_power_of_degree_four _ _ (Biquad.natDegree_numerator c d) (Biquad.natDegree_denominator c d) ?_ fun row hr => ?_
  · simpa using power h0
  · simpa using power (h row hr)

/-- No two second-order stages meet the table to the nearest 0.01 dB. -/
theorem Biquad.no_pair_meets_table : ¬ ∃ c d : Biquad, c.MeetsResponseTable d := fun ⟨c, d, h⟩ =>
  no_pair_within_three c d (h (1000, 0) (by decide)) fun row hr => ⟨(h row hr).1, (h row hr).2.trans (by norm_num)⟩

end Sys2Proof
end

