-- ==== Sys2Proof/Laws/SerialLine.lean ====
section
/-! SUPPORT. A byte put together from the data bits of its levels, and what TXD carries at rest (R171). -/

namespace Sys2Proof.Machine

/-- The eight data bits of a byte make the byte again. -/
theorem count8_packBits (b : Byte) :
    count8 (packBits [b.getLsbD 0, b.getLsbD 1, b.getLsbD 2, b.getLsbD 3, b.getLsbD 4, b.getLsbD 5, b.getLsbD 6, b.getLsbD 7]) =
      b := by
  revert b; decide +kernel

@[simp] theorem lineLevels_length (b : Byte) : (lineLevels b).length = 10 := rfl

/-- A port that sends no response holds TXD high (R171). -/
theorem State.txdLevel_of_idle {s : State} {p : Port} (h : (s.port p).serving = none) (k : Nat) : s.txdLevel p k = true := by
  simp [State.txdLevel, h]

end Sys2Proof.Machine
end

