-- ==== Sys2Proof/Laws/Visits.lean ====
section
/-! SUPPORT. What a visit and a run of the gain law can change, said once (R48 to R51, R78 to R100). -/

namespace Sys2Proof.Machine

/-! ### The gain law -/

/-- Supervision changes the deviation and settle states alone. -/
theorem Programme.supervise_frame (P : Programme) : P.supervise =
    { P with deviation := P.supervise.deviation, faultCount := P.supervise.faultCount,
             settleCount := P.supervise.settleCount, settled := P.supervise.settled } := by
  simp only [Programme.supervise]
  split
  · rfl
  · simp only [Programme.updateDeviation, Programme.updateSettle, Programme.unsettle]
    repeat' split
    all_goals rfl

/-- A hold visit changes nothing (R80). -/
theorem State.gainLaw_hold {s : State} {p : Prog} (h : (s.prog p).nonHold = none) : s.gainLaw p = s := by
  simp only [State.gainLaw, h]

/-- A step moves the ACTIVE members of its group and nothing else. -/
theorem State.prog_stepGroup (s : State) (p q : Prog) :
    (s.stepGroup p).prog q =
      { s.prog q with gcur := ((s.stepGroup p).prog q).gcur, out := ((s.stepGroup p).prog q).out } ∧
    (q ∉ s.activeGroup p → (s.stepGroup p).prog q = s.prog q) := by
  simp only [State.stepGroup]
  split
  · rw [State.prog_moveGroup]
    split
    · rename_i hq
      exact ⟨Programme.moveGain_frame _ _, fun hx => absurd hq hx⟩
    · exact ⟨rfl, fun _ => rfl⟩
  · exact ⟨rfl, fun _ => rfl⟩

/-- The gain law changes of its own programme the gain, the ramp, Gd and the supervision, of the other ACTIVE members of the group the
gain and the ramp, and nothing else. -/
theorem State.prog_gainLaw (s : State) (p q : Prog) :
    (s.gainLaw p).prog q =
      { s.prog q with gcur := ((s.gainLaw p).prog q).gcur, out := ((s.gainLaw p).prog q).out,
                      gd := ((s.gainLaw p).prog q).gd, deviation := ((s.gainLaw p).prog q).deviation,
                      faultCount := ((s.gainLaw p).prog q).faultCount,
                      settleCount := ((s.gainLaw p).prog q).settleCount, settled := ((s.gainLaw p).prog q).settled } ∧
    (q ≠ p →
      (s.gainLaw p).prog q =
        { s.prog q with gcur := ((s.gainLaw p).prog q).gcur, out := ((s.gainLaw p).prog q).out } ∧
      (q ∉ s.activeGroup p → (s.gainLaw p).prog q = s.prog q)) := by
  cases h : (s.prog p).nonHold with
  | none => simp [State.gainLaw_hold h]
  | some r =>
    simp only [State.gainLaw, h]
    generalize hs1 : (s.onProg p fun P => { P with gd := some (P.desiredGain r) }) = s1
    have e1 : ∀ q, s1.prog q = { s.prog q with gd := (s1.prog q).gd } ∧ (q ≠ p → s1.prog q = s.prog q) := by
      intro q
      rw [← hs1]
      simp only [State.prog_onProg]
      split <;> simp [*]
    have ea : q ∉ s.activeGroup p → q ∉ s1.activeGroup p := by
      have hl : s1.links = s.links := by rw [← hs1]; rfl
      rw [State.mem_activeGroup, State.mem_activeGroup, State.sameGroup_congr hl, (e1 q).1]
      exact id
    generalize hs2 : (if s1.head p = some p then s1.stepGroup p else s1) = s2
    have e2 : s2.prog q = { s1.prog q with gcur := (s2.prog q).gcur, out := (s2.prog q).out } ∧
        (q ∉ s.activeGroup p → s2.prog q = s1.prog q) := by
      rw [← hs2]
      split
      · exact ⟨(s1.prog_stepGroup p q).1, fun hq => (s1.prog_stepGroup p q).2 (ea hq)⟩
      · exact ⟨rfl, fun _ => rfl⟩
    simp only [State.fireSettled, State.prog_fireIf, State.prog_onProg]
    split
    · subst q
      simp only [ne_eq, not_true_eq_false, false_implies, and_true]
      have h2 := e2.1
      rw [(e1 p).1] at h2
      refine (s2.prog p).supervise_frame.trans ?_
      simp only [Programme.mk.injEq]
      constructorm* _ ∧ _ <;>
        first | trivial | rfl | rw [Programme.supervise_frame] | rw [h2]
    · rename_i hq
      rw [(e1 q).2 hq] at e2
      refine ⟨?_, fun _ => e2⟩
      have h2 := e2.1
      refine h2.trans ?_
      simp only [Programme.mk.injEq]
      constructorm* _ ∧ _ <;>
        first | trivial | rfl | rw [h2]

/-- The gain law keeps all but the programmes and the notice sets. -/
theorem State.gainLaw_frame (s : State) (p : Prog) :
    s.gainLaw p = { s with progs := (s.gainLaw p).progs, notices := (s.gainLaw p).notices } := by
  have h : ∀ u : State, u.stepGroup p = { u with progs := (u.stepGroup p).progs } := fun u => by
    simp only [State.stepGroup]
    split <;> rfl
  simp only [State.gainLaw]
  split
  · rfl
  · simp only [State.fireSettled, State.fireIf]
    split <;> split
    all_goals first | (rw [h]; rfl) | rfl

/-! ### Records and rings -/

/-- An energy goes into both rings, and the readings follow them (R48 to R51). -/
theorem Programme.pushEnergy_frame (e : Nat) (P : Programme) : P.pushEnergy e =
    { P with momentary := P.momentary.push 4 e, shortTerm := P.shortTerm.push 30 e,
             readingM := ((P.momentary.push 4 e).mean 4).map level,
             readingS := ((P.shortTerm.push 30 e).mean 30).map level,
             histogram := (P.pushEnergy e).histogram, readingI := (P.pushEnergy e).readingI } := by
  simp only [Programme.pushEnergy, momentaryCap, shortTermCap]
  split <;> rfl

@[simp] theorem Programme.pushEnergy_queue (e : Nat) (P : Programme) : (P.pushEnergy e).queue = P.queue := by
  rw [P.pushEnergy_frame]

@[simp] theorem Programme.pushEnergy_momentary (e : Nat) (P : Programme) :
    (P.pushEnergy e).momentary = P.momentary.push 4 e := by rw [P.pushEnergy_frame]

@[simp] theorem Programme.pushEnergy_shortTerm (e : Nat) (P : Programme) :
    (P.pushEnergy e).shortTerm = P.shortTerm.push 30 e := by rw [P.pushEnergy_frame]

@[simp] theorem Programme.pushEnergy_readingM (e : Nat) (P : Programme) :
    (P.pushEnergy e).readingM = ((P.momentary.push 4 e).mean 4).map level := by rw [P.pushEnergy_frame]

@[simp] theorem Programme.pushEnergy_readingS (e : Nat) (P : Programme) :
    (P.pushEnergy e).readingS = ((P.shortTerm.push 30 e).mean 30).map level := by rw [P.pushEnergy_frame]

/-- Consuming a record touches the queue, the rings, the histogram and the readings alone. -/
theorem Programme.consume_frame (P : Programme) : P.consume =
    { P with queue := P.consume.queue, momentary := P.consume.momentary, shortTerm := P.consume.shortTerm,
             readingM := P.consume.readingM, readingS := P.consume.readingS, histogram := P.consume.histogram,
             readingI := P.consume.readingI } := by
  simp only [Programme.consume]
  split
  · rfl
  · rw [Programme.pushEnergy_frame]

/-- A ring that holds its exact sum and at most `cap` energies does so after a push. -/
theorem Ring.push_sound {cap : Nat} {r : Ring} {e : Nat} (h : r.Sound cap) (hc : 1 ≤ cap) (he : e ≤ maxEnergy) :
    (r.push cap e).Sound cap := by
  obtain ⟨h1, h2, h3⟩ := h
  simp only [Ring.push]
  split <;> rename_i hn
  · refine ⟨by simp; omega, by simp [h2], fun x hx => ?_⟩
    rcases List.mem_append.1 hx with hx | hx
    · exact h3 x hx
    · exact (List.mem_singleton.1 hx) ▸ he
  · rcases hr : r.cells with _ | ⟨a, l⟩
    · rw [hr] at hn
      simp at hn
      omega
    · rw [hr] at h1 h2 h3
      refine ⟨by simpa using h1, by simp [h2], fun x hx => ?_⟩
      rcases List.mem_append.1 hx with hx | hx
      · exact h3 x (List.mem_cons_of_mem _ hx)
      · exact (List.mem_singleton.1 hx) ▸ he

end Sys2Proof.Machine
end

