-- ==== Sys2Proof/Tests/Slice0.lean ====
section
/-! SUPPORT. Tests: the ill-formed terms that each check refuses, the manual's own figures, and a concrete witness for the hypotheses of
each statement for the provers. -/

namespace Sys2Proof.Machine.Test

set_option Elab.async false -- one kernel evaluation at a time

/-! ### Small states -/

/-- The state that a command leaves. -/
def after (c : Instr) (s : State) : State :=
  match exec c s with
  | .next t => t
  | _ => s

/-- Station 0 holds every claim, and the link flags are those of `b`. -/
def claimed (b : Bool := false) : State :=
  { State.reset with claims := Vector.replicate 9 (some 0), links := Vector.replicate 7 b }

/-- The clock is present and a frame is open. -/
def live (s : State) : State := { s with monitor := .present 24576, frameOpen := true }

/-- Every programme rewritten by `f`. -/
def all (f : Programme → Programme) (s : State) : State := s.mapProgs fun _ => f

/-- Every programme in ACTIVE with the gain `g`. -/
def active (g : Int) : Programme → Programme := fun P => { P with mode := .active, gcur := g }

/-- Every programme in MEASURE. -/
def measuring : Programme → Programme := fun P => { P with mode := .measure }

/-- Programme 0 waits for its completion. -/
def fullBlock (P : Programme) : Programme := { P with mode := .measure, front := { P.front with frameCount := 4800 } }

theorem default_inRange : Profile.default.InRange := by
  simp [Profile.InRange, Profile.default]

theorem default_slots : ∀ i : Slot, (Vector.replicate 2 Profile.default)[i] = Profile.default := by decide

/-- Default slots and one gain through all make the gains sound. -/
theorem gains_of {s : State} (g : Int) (h1 : -1200 ≤ g) (h2 : g ≤ 600)
    (h : ∀ p, (s.prog p).slots = Vector.replicate 2 Profile.default ∧ (s.prog p).gcur = g ∧ (s.prog p).gd = none ∧
      (s.prog p).trim = 0 ∧ ((s.prog p).mode = .measure → g = 0)) : s.GainsSound := by
  refine ⟨fun p => ?_, fun p q _ _ _ => by rw [(h p).2.1, (h q).2.1]⟩
  obtain ⟨a, b, c, d, e⟩ := h p
  have hs : ∀ i : Slot, (s.prog p).slots[i] = Profile.default := fun i => by
    rw [a]
    exact default_slots i
  refine ⟨fun i => by rw [hs]; exact default_inRange, ?_, ?_, fun hm => by rw [b]; exact e hm, fun g hg => ?_, ?_, ?_⟩
  · show (s.prog p).slots[(s.prog p).inService].gainMin ≤ _
    rw [hs, b]; exact h1
  · show _ ≤ (s.prog p).slots[(s.prog p).inService].gainMax
    rw [hs, b]; exact h2
  · rw [c] at hg; exact nomatch hg
  · rw [d]; decide
  · rw [d]; decide

/-! ### The checks of well-formedness -/

theorem test_long_payload_refused :
    (Instr.pause 0 0 (List.replicate 49 0)).illFormed = some .payloadTooLong ∧
    (Instr.unknownRequest 0 0x77 0 (List.replicate 49 0)).illFormed = some .payloadTooLong ∧
    (Instr.pause 0 0 (List.replicate 48 0)).WellFormed = true := by decide

theorem test_known_code_refused :
    (Instr.unknownRequest 0 0x10 0 []).illFormed = some .codeIsKnown ∧
    (Instr.unknownRequest 0 0x77 0 []).WellFormed = true := by decide

/-! ### The manual's figures -/

/-- R174's framing example: the CHECK bytes of a claim and of its answer. -/
theorem test_claim_framing :
    frameMessage [0x10, 0x03] = [0x5A, 0x02, 0x10, 0x03, 0x88] ∧
    frameMessage [0x10, 0x03, 0x02, 0x01] = [0x5A, 0x04, 0x10, 0x03, 0x02, 0x01, 0x78] := by decide +kernel

/-- The same example through the port: the answer on P1. -/
theorem test_claim_answer :
    ((after (.claim 1 3 []) .reset).port 1).serving = some [0x5A, 0x04, 0x10, 0x03, 0x02, 0x01, 0x78] ∧
    (after (.claim 1 3 []) .reset).holder 3 = some 1 := by decide +kernel

/-- The table of R28. -/
theorem test_levels :
    [2147483647, 1073741824, 536870912, 107374182, 10737418, 7735669, 4685605, 1073742, 108, 107, 100, 2, 1, 0].map level =
      [301, 0, -301, -1000, -2000, -2142, -2360, -3000, -6997, -7002, -7031, -8730, -9031, -12000] := by decide +kernel

/-- The table of R108. -/
theorem test_ceilings :
    [0, -100, -600, -1200].map ceilingValue = [8388607, 7476354, 4204263, 2107123] := by decide +kernel

/-- The table of R63, but for its row of bin 200, which the formula puts one higher (log entry 13). -/
theorem test_representatives :
    [0, 40, 80, 120, 160, 240].map representative = [111, 1105, 11051, 110510, 1105096, 110509565] := by decide +kernel

/-- The two peaks of chapter 6. -/
theorem test_peaks :
    reductionFor 7476354 8000000 = 59 ∧ reductionFor 7476354 8300000 = 91 ∧ reductionFor 7476354 7476354 = 0 ∧
    reductionFor 7476354 7476355 = 1 := by decide +kernel

/-- The table of R59. -/
theorem test_bins :
    [-7000, -6976, -6975, -2028, -2000, -1976, -1949, 0, 274, 275, 300, 301].map (fun l => (binOf l).val) =
      [0, 0, 1, 198, 200, 200, 202, 280, 290, 291, 291, 291] := by decide

/-- The worked halving of chapter 4. -/
def halving : Histogram :=
  { bins := (((Histogram.empty.bins.set 150 7).set 200 65535).set 201 3).set 202 1, below := 900 }

theorem test_halving :
    let h := (halving.enter (-1975)).enter (-2000)
    (halving.n1, h.bins[150], h.bins[200], h.bins[201], h.bins[202], h.n1, h.below) =
      (65546, 3, 32768, 2, 0, 32773, 900) := by decide +kernel

/-- The worked case of two gates over three bins. -/
def threeBins : Histogram := { bins := ((Histogram.empty.bins.set 200 40).set 160 20).set 120 40, below := 0 }

theorem test_two_gates :
    threeBins.integrated = some (-2142) ∧ lowestBin (-2360 - 1000) = 146 := by decide +kernel

/-- A segment restart leaves one block in bin 196, whose reading is -2087. -/
theorem test_single_block : ((Histogram.empty.enter (-2080)).integrated, (binOf (-2080)).val) = (some (-2087), 196) := by
  decide +kernel

/-- The worked ramp of chapter 6. -/
theorem test_ramp :
    let r : Ramp := { start := 4194304, fin := factor (-20), left := 480 }
    let r' : Ramp := { start := 4154524, fin := 4194304, left := 480 }
    [1, 120, 200].map r.factorAt = [4194106, 4170436, 4154524] ∧
    [1, 240, 480].map r'.factorAt = [4154606, 4174414, 4194304] := by decide +kernel

/-- The worked write of chapter 7: {target, up_rate, fault_dev}, and then {warn_dev, fault_dev}. -/
def clampedWrite : Writing := Profile.default.write [.number .target (-4500), .number .upRate 0, .number .warnDev 900]

theorem test_clamped_write :
    (clampedWrite.clamped, clampedWrite.profile.target, clampedWrite.profile.upRate, clampedWrite.profile.faultDev) =
      (0x0411, -4000, 1, 900) ∧
    (clampedWrite.profile.write [.number .warnDev 2500, .number .faultDev 1500]).clamped = 0x0600 := by decide

/-- The third case of R126: a named fault_dev is raised from 800 to the new warn_dev 900 and then stored as given. -/
theorem test_raised_and_named :
    let w := Profile.default.write [.number .faultDev 1500, .number .warnDev 900]
    (w.clamped, w.profile.warnDev, w.profile.faultDev) = (0x0400, 900, 1500) := by decide

/-- R198 after a reset: the pin is low while DEVICE_RESET is pending, and high once it is acknowledged. -/
theorem test_attention_pin :
    State.reset.attentionPin 0 = false ∧ (after (.ackNotices 0 0 [1, 0]) .reset).attentionPin 0 = true := by decide +kernel

/-- The worked settling of chapter 5, visit 1: from 0 toward -158 under a deadband of 20, and the deviation of -180. -/
def settling : Programme :=
  { Programme.reset with
    mode := .active, readingM := some (-2080), readingS := some (-2100), readingI := some (-2142)
    slots := Vector.replicate 2 { Profile.default with deadband := 20 } }

theorem test_settling :
    let s := (State.reset.onProg 0 fun _ => settling).gainLaw 0
    ((s.prog 0).gd, (s.prog 0).gcur, (s.prog 0).settleCount, (s.prog 0).out.ramp.map (·.fin)) =
      (some (-158), -20, 0, some 4098830) ∧ (s.gainLaw 0 |>.prog 0).gcur = -40 := by decide +kernel

/-- The worked pair of chapter 5: programme 5 enters beside programme 4 and both take -100. -/
def pair : State :=
  { ((claimed).onProg 4 (active (-140))).onProg 5 (fun P =>
      { measuring P with slots := P.slots.set 0 { Profile.default with gainMin := -100 } }) with
    links := (Vector.replicate 7 false).set 4 true }

theorem test_pair :
    let s := after (.setMode 0 5 [2]) pair
    ((s.prog 4).gcur, (s.prog 5).gcur, s.head 5, ((after (.forceSlot 0 5 [1]) { s with ports := claimed.ports }).prog 5).gcur) =
      (-100, -100, some 4, -100) := by decide +kernel

/-- A frame's slots: 24 bits above, zeros below. -/
theorem test_slots :
    sampleOf 0x800000FF = -8388608 ∧ sampleOf 0x7FFFFF00 = 8388607 ∧ slotOf (-1) = 0xFFFFFF00 := by decide

/-- Set and ends of SET_SCAN_PERIOD, SET_TRIM and SET_SCHEDULE. -/
theorem test_clamps :
    ((after (.setScanPeriod 0 0 [149, 0]) claimed).scan.reload, (after (.setScanPeriod 0 0 [0xC0, 0x12]) claimed).scan.reload,
      ((after (.setTrim 0 0 [0x51, 0xFB]) claimed).prog 0).trim, ((after (.setTrim 0 0 [0xB0, 4]) claimed).prog 0).trim) =
      (150, 4800, -1199, 1200) := by decide +kernel

/-- The bytes of a request received one by one do what its command does. -/
theorem test_bytes :
    let s := [0x5A, 0x02, 0x10, 0x03, 0x88].foldl (fun s b => after (.byteReceived 1 b) s) State.reset
    s.port 1 = (after (.claim 1 3 []) .reset).port 1 ∧ s.holder 3 = some 1 := by decide +kernel

/-- An absent station's claims are dropped, and its next message makes it present. -/
theorem test_absence :
    (after (.stationAbsence 0) claimed).holder 8 = none ∧
    ((after (.readDevice 0 0 []) (after (.stationAbsence 0) claimed)).port 0).isAbsent = false := by decide +kernel

/-- R171: the SYNC byte 0x5A on the line, taken as a byte; the same byte with a low stop bit on a line that stays low for a while is
one framing error, and the next byte is taken after it. -/
theorem test_line :
    lineCommands 1 .idle [true, false, false, true, false, true, true, false, true, false, true, true] = [.byteReceived 1 0x5A] ∧
    lineCommands 1 .idle ([false, false, true, false, true, true, false, true, false, false, false, false, true] ++ lineLevels 7) =
      [.messageDiscard 1 .framingError, .byteReceived 1 7] := by decide +kernel

/-- R8: leaving OFF while the clock is lost keeps D until the return, which sets it to 0; with the clock present it is 0 at once. -/
theorem test_leaving_OFF :
    let frozen := fun P : Programme => { P with out := { P.out with reduction := 9 } }
    let lost := after (.setMode 0 2 [1]) (all frozen claimed)
    (lost.prog 2).mode = .measure ∧ (lost.prog 2).out.reduction = 9 ∧
    ((after .clockReturnDeclaration (after .frameSync lost)).prog 2).out.reduction = 0 ∧
    ((after (.setMode 0 2 [1]) (all frozen (live claimed))).prog 2).out.reduction = 0 := by decide +kernel

/-! ### Witnesses: the queue, the clock and the resets -/

theorem test_hyp_StepRunsTheFrontCommand :
    { State.reset with pending := [.scanTick] }.pending = .scanTick :: ([] : List Instr) := rfl

theorem test_hyp_CommandsLeaveTheQueue : exec .requestedReset State.reset = .next State.reset := rfl

theorem test_hyp_EmptyQueuePassesACycle :
    ({ State.reset with held := true }.pending = [] ∧ { State.reset with held := true }.held = true) ∧
    ∀ m ∈ [Monitor.present 1, .lost none, .lost (some { run := 245759, sinceSync := 0 }),
        .lost (some { run := 245759, sinceSync := 24575 })],
      let port : PortState := { access := .full, receive := .receiving [] 1, serving := none, presence := .present 1, overtaken := false }
      let s := { State.reset with monitor := m, ports := Vector.replicate 3 port }
      s.pending = [] ∧ s.held = false ∧ s.dueEvents = [] := by decide +kernel

/-- An ABSENT port whose receive half is IDLE, for the clauses on what stands. -/
theorem test_hyp_EmptyQueuePassesACycle_absent :
    let s := after (.stationAbsence 0) claimed
    s.pending = [] ∧ s.held = false ∧ s.dueEvents = [] ∧ (s.port 0).presence = .absent ∧ (s.port 0).receive = .idle := by
  decide +kernel

/-- The clock is present, and a ramp, a sub-block and the divider wait: what the due forms of EmptyQueuePassesACycle,
LossStopsTheAudioSide, FramePassesThrough, ProgrammeResetClears and CueTransitionsAct start from. -/
def waiting : State :=
  let s := (live claimed).onProg 0 fun P =>
    { fullBlock P with out := { P.out with ramp := some { start := 7, fin := 9, left := 0 } } }
  { s with scan := { s.scan with count := 0 } }

theorem test_hyp_due :
    waiting.held = false ∧ waiting.monitor = .present 24576 ∧ waiting.takesFrame = true ∧ 1 ≤ waiting.scan.reload ∧
    waiting.dueEvents = [.rampEnd 0, .subblockCompletion 0, .scanTick] ∧
    4800 ≤ (waiting.prog 0).front.frameCount := by decide +kernel

theorem test_hyp_LossTimerLeadsToDeclaration :
    let s := { State.reset with monitor := .present 1 }
    s.pending = [] ∧ s.held = false ∧ s.dueEvents = [] ∧ s.monitor = .present (0 + 1) ∧
    ∀ p, (∀ k, (s.port p).presence = .present k → 0 + 1 < k) ∧
      (∀ bytes k, (s.port p).receive = .receiving bytes k → 0 + 1 < k) := by
  have hp : ∀ p, (State.reset.port p).presence = .present 122880000 ∧ (State.reset.port p).receive = .idle := by
    decide +kernel
  refine ⟨rfl, rfl, by decide +kernel, rfl, fun p => ⟨fun k h => ?_, fun bytes k h => ?_⟩⟩
  · have := (hp p).1.symm.trans h
    rw [Presence.present.injEq] at this
    omega
  · exact nomatch (hp p).2.symm.trans h

/-- For PowerOnResetsEverything (which has no hypothesis), PinResetKeepsTheClasses and ResetEndStartsTheTimers. -/
theorem test_hyp_PinResetKeepsTheClasses_ResetEndStartsTheTimers :
    State.reset.held = false ∧ (after (.powerOn 5) .reset).held = true := by decide +kernel

theorem test_hyp_ResponseEndsAndRequestedResetActs :
    let s := after (.resetDevice 0 0 []) claimed
    let r := after (.readDevice 1 0 []) .reset
    (s.held = false ∧ (s.port 0).serving.isSome = true ∧ s.resetRequest = some 0) ∧
    (r.held = false ∧ (r.port 1).serving.isSome = true ∧ r.resetRequest ≠ some 1) := by decide +kernel

/-- For the three statements on the monitor. -/
theorem test_hyp_SyncsDriveTheMonitor_LossStopsTheAudioSide_ReturnRestartsTheAudioSide :
    (live .reset).monitor = .present 24576 ∧ (live .reset).held = false ∧ (live .reset).dueEvents = [] ∧
    State.reset.monitor = .lost none ∧
    (after .frameSync .reset).monitor = .lost (some { run := 0, sinceSync := 0 }) := by decide +kernel

/-! ### Witnesses: frames, ramps and sub-blocks -/

theorem test_hyp_FramePassesThrough :
    State.reset.takesFrame = false ∧
    (let s := (live .reset).onProg 0 measuring
     s.held = false ∧ s.takesFrame = true ∧ s.dueEvents = [] ∧ (∀ p, (s.prog p).out.pipeline.length = 2) ∧
       (s.prog 0).mode ≠ .off ∧ (s.prog 1).mode = .off) := by decide +kernel

theorem test_hyp_NoSampleAboveTheCeiling :
    let s := (live .reset).onProg 0 measuring
    let t := after (.inputFrame (Vector.replicate 16 0)) s
    s.held = false ∧ s.takesFrame = true ∧ exec (.inputFrame (Vector.replicate 16 0)) s = .next t ∧
      t.tdmOut.isSome = true ∧ (t.prog 0).mode ≠ .off := by
  refine ⟨rfl, rfl, rfl, by decide +kernel, by decide +kernel⟩

theorem test_hyp_BypassDelaysFiftyFrames :
    let f : Vector TdmWord 16 := Vector.replicate 16 0xFFFFFFFF
    let fs := List.replicate 50 f
    let s := { live .reset with pending := (f :: fs).flatMap fun x => [.frameSync, .inputFrame x] }
    s.held = false ∧ s.monitor = .present 24576 ∧ (s.prog 0).mode = .off ∧ (s.prog 0).out.bypass.length = 50 ∧
      fs.length = 50 ∧ s.pending = (f :: fs).flatMap fun x => [.frameSync, .inputFrame x] := by
  refine ⟨rfl, rfl, by decide +kernel, by decide +kernel, rfl, rfl⟩

theorem test_hyp_RampRunsAndEnds :
    { OutputStage.reset with ramp := some { start := 7, fin := 9, left := 480 } }.ramp =
      some { start := 7, fin := 9, left := 480 } ∧
    (let s := State.reset.onProg 0 fun P => { P with out := { P.out with ramp := some { start := 7, fin := 9, left := 0 } } }
     s.held = false ∧ (s.prog 0).out.ramp = some { start := 7, fin := 9, left := 0 }) := by decide +kernel

/-- The four forms of a completion: paused, room for one, no room, and an enabled comparator that does not match. -/
theorem test_hyp_CompletionForms :
    ∀ f ∈ [fun P : Programme => { P with requestPause := true },
        fun P => { P with queue := List.replicate 3 { energy := 1, counter := 1 } },
        fun P => { P with queue := List.replicate 4 { energy := 1, counter := 1 } },
        fun P => { P with schedule := { compareA := 2, compareB := 3, increment := 1, enabled := true } }],
      let s := (live .reset).onProg 0 fun P => f (fullBlock P)
      s.held = false ∧ 4800 ≤ (s.prog 0).front.frameCount ∧ ((s.prog 0).schedule.enabled = false ∨
        (s.prog 0).front.counter + 1 ≠ (s.prog 0).schedule.compareA ∧
        (s.prog 0).front.counter + 1 ≠ (s.prog 0).schedule.compareB) := by decide +kernel

/-- Programme 0 waits for the completion that counts 1, with comparators at `a` and `b`. -/
def scheduled (a b : Count32) : State :=
  (live .reset).onProg 0 fun P =>
    { fullBlock P with schedule := { compareA := a, compareB := b, increment := 1, enabled := true } }

theorem scheduled_prog (a b : Count32) : (scheduled a b).prog 0 =
    { fullBlock Programme.reset with schedule := { compareA := a, compareB := b, increment := 1, enabled := true } } := rfl

theorem test_hyp_ScheduleMatchTogglesTheSlot_gains : (scheduled 1 1).GainsSound :=
  gains_of 0 (by decide) (by decide) (by decide +kernel)

/-- A match of both is `a = b = 1`, of B alone `a = 2` and `b = 1`, and none is `a = b = 2`. -/
theorem test_hyp_ScheduleMatchTogglesTheSlot (a b : Count32) :
    (scheduled a b).held = false ∧ 4800 ≤ ((scheduled a b).prog 0).front.frameCount ∧
    ((scheduled a b).prog 0).schedule.enabled = true ∧ ((scheduled a b).prog 0).front.counter + 1 = 1 ∧
    ((scheduled a b).prog 0).schedule.compareA = a ∧ ((scheduled a b).prog 0).schedule.compareB = b := by
  rw [scheduled_prog]
  exact ⟨rfl, Nat.le_refl 4800, rfl, (by decide : (0 : Count32) + 1 = 1), rfl, rfl⟩

/-- An empty visit and a visit that consumes. -/
theorem test_hyp_TickVisitsTheEntry :
    let s := { live .reset with scan := { ScanEngine.reset with count := 0 } }
    let u := s.onProg 0 fun P => { measuring P with queue := [{ energy := 5, counter := 1 }] }
    (s.held = false ∧ s.clockLost = false ∧ s.scan.count = 0 ∧ s.scan.table[s.scan.next]? = some (some 0) ∧
      (s.prog 0).mode = .off) ∧
    (u.held = false ∧ u.clockLost = false ∧ u.scan.count = 0 ∧ u.scan.table[u.scan.next]? = some (some 0) ∧
      (u.prog 0).mode ≠ .off ∧ (u.prog 0).queue ≠ []) := by decide +kernel

/-- A ring of one place that is full, and a momentary ring with room for one. -/
theorem test_hyp_TickVisitsTheEntry_rings :
    ({ cells := [7], sum := 7 } : Ring).Sound 1 ∧ ({ cells := [1, 2, 3], sum := 6 } : Ring).Sound 4 := by
  unfold Ring.Sound
  decide

/-! ### Witnesses: histogram, gain and supervision -/

/-- The ends of the ranges of the four statements on levels and powers of ten, and a magnitude on each side of a ceiling value. -/
theorem test_hyp_LevelRounds_FactorRounds_CeilingsAndEnergies_ReductionRoundsUp :
    (1 : Nat) ≤ 2 ^ 31 - 1 ∧ (-2400 : Int) ≤ 1200 ∧ (-1200 : Int) ≤ 0 ∧ (0 : Nat) ≤ 48 * 2401 ∧ 2107123 ≤ ceilingValue (-1200) ∧
    ceilingValue 0 ≤ 8388607 ∧ (2107123 : Nat) ≤ 2107123 ∧ (2107123 : Nat) < 33395650 := by decide +kernel

/-- A free bin, a full bin, and a level below the gate, at the ends of the bins. -/
theorem test_hyp_HistogramTakesABlock :
    (∀ i : Fin 292, halving.bins[i] ≤ 65535) ∧ (-7001 : Int) < -7000 ∧ (binOf (-7000)).val = 0 ∧ (binOf 301).val = 291 ∧
    halving.bins[binOf (-2000)] = 65535 ∧ halving.bins[binOf (-7000)] < 65535 := by decide +kernel

theorem test_hyp_SecondPassAlwaysHasBlocks :
    Histogram.empty.n1 = 0 ∧ 1 ≤ threeBins.n1 ∧ 1 ≤ threeBins.bins[(200 : Fin 292)] ∧
    ∀ j : Fin 292, 200 < j → threeBins.bins[j] = 0 := by decide +kernel

/-- Inside the deadband at its end, just above it, and below it. -/
theorem test_hyp_LoneProgrammeSteps :
    ∀ d ∈ [(-50 : Int), 51, -51],
      let s := State.reset.onProg 0 fun P =>
        { active 0 P with readingM := some 0, readingS := some (-2300 - d) }
      (s.prog 0).mode = .active ∧ (s.prog 0).nonHold = some (-2300 - d) ∧ s.activeGroup 0 = [0] ∧
        (s.prog 0).profile = Profile.default ∧ (s.prog 0).profile.target - (-2300 - d) + (s.prog 0).trim = d := by decide +kernel

theorem test_hyp_HeadMovesTheGroup :
    let s := all (fun P => { active (-20) P with readingM := some 0, readingS := some (-2000) }) (claimed true)
    let u := all (active (-20)) (claimed true)
    (s.prog 0).mode = .active ∧ (s.prog 0).nonHold = some (-2000) ∧ s.head 0 = some 0 ∧ s.head 1 ≠ some 1 ∧
      (u.prog 0).mode = .active ∧ (u.prog 0).nonHold = none := by decide +kernel

/-- At both sides of each threshold of the default slot. -/
theorem test_hyp_SupervisionCountsVisits :
    Programme.reset.profile.InRange ∧ Programme.reset.faultCount = 0 ∧ Programme.reset.settleCount = 0 ∧
    Programme.reset.profile.faultDev < 801 ∧ Programme.reset.profile.warnDev < 301 ∧ (800 : Int) ≤ Programme.reset.profile.faultDev ∧
    (300 : Int) ≤ Programme.reset.profile.warnDev ∧ (100 : Int) ≤ Programme.reset.profile.settleTol ∧
    Programme.reset.profile.settleTol < 101 := by
  refine ⟨default_inRange, ?_⟩
  decide +kernel

/-- The runs of the gain law: a hold visit, and non-hold visits on each reading and in each mode, with S and without. -/
theorem test_hyp_SupervisionCountsVisits_runs :
    let with_ := fun (k : Steering) (m : Programme → Programme) (r i : Option Int) => State.reset.onProg 0 fun P =>
      { m P with
        readingM := some (-4500), readingS := r, readingI := i
        slots := Vector.replicate 2 { Profile.default with steering := k } }
    (State.reset.prog 0).nonHold = none ∧
    ((with_ .short measuring (some 1) (some 2)).prog 0).nonHold = some 1 ∧
    ((with_ .integrated (active 0) (some 1) (some 2)).prog 0).nonHold = some 2 ∧
    ((with_ .integrated measuring (some 1) none).prog 0).nonHold = some 1 ∧
    ((with_ .integrated (active 0) none (some 2)).prog 0).nonHold = some 2 := by decide +kernel

/-! ### Witnesses: the order of checks and the reads -/

theorem ready_reset (p : Port) : State.reset.ReadyFull p := by
  refine ⟨⟨rfl, ?_⟩, ?_⟩ <;> revert p <;> decide +kernel

theorem ready_claimed (b : Bool) (r : ClaimRecord) : (claimed b).ReadyHolder 0 r := by
  refine ⟨⟨⟨rfl, by cases b <;> decide +kernel⟩, by cases b <;> decide +kernel⟩, ?_⟩
  cases b <;> revert r <;> decide +kernel

/-- A READ_ONLY port at rest. -/
theorem test_hyp_ReadOnlyPortIsRefused :
    let s := after .resetEnd (after (.powerOn 7) .reset)
    s.Ready 2 ∧ (s.port 2).access = .readOnly := by
  refine ⟨⟨by decide +kernel, by decide +kernel⟩, by decide +kernel⟩

theorem test_hyp_MalformedRequestsAreRefused :
    State.reset.Ready 0 ∧ (State.reset.port 0).access = .full ∧ (0x77 : Byte) ∉ requestCodes ∧
    (8 : Nat) ≤ (8 : Byte).toNat := ⟨(ready_reset 0).1, (ready_reset 0).2, by decide, by decide⟩

/-- A faulty payload of every form. -/
theorem test_hyp_MalformedRequestsAreRefused_values :
    (faultyForms.all fun f => 4 ≤ f.targets &&
      [[], [2], [3], [0, 2], [0x24, 1, 0], [2, 0, 0], List.replicate 12 0 ++ [2], [0, 8, 0, 0, 0, 0, 0],
        [0, 0, 0, 0, 0, 4, 0]].any f.faulty) = true ∧
    (8 : Nat) ≤ (8 : Byte).toNat := by decide

/-- A free record and one that another station holds; each form at a payload that passes. -/
theorem test_hyp_UnclaimedRequestsAreRefused :
    State.reset.ReadyFull 0 ∧ (claimed).ReadyFull 1 ∧ State.reset.holder (progRecord 7) ≠ some 0 ∧
    (claimed).holder deviceRecord ≠ some 1 ∧ (profileItems []).isSome = true ∧
    (programmeForms.all fun f =>
      [[], [0], [1], [0, 0], [0, 0, 0, 0], List.replicate 13 0].any f.wellFormed) = true ∧
    (deviceForms.all fun f => [[], [1, 0xFF], [0, 0], List.replicate 7 0].any f.1.wellFormed) = true ∧
    (State.reset.setHolder (progRecord 0) (some 0)).holder (progRecord (0 : LinkFlag).castSucc) = some 0 ∧
    (State.reset.setHolder (progRecord 0) (some 0)).holder (progRecord (0 : LinkFlag).succ) ≠ some 0 := by
  refine ⟨ready_reset 0, ?_, by decide +kernel, by decide +kernel, by decide, by decide, by decide, by decide +kernel,
    by decide +kernel⟩
  exact ⟨⟨rfl, by decide +kernel⟩, by decide +kernel⟩

theorem test_hyp_SlotInServiceIsProtected :
    let s := all (active 0) claimed
    s.ReadyHolder 0 (progRecord 0) ∧ (s.prog 0).mode = .active ∧ (s.prog 0).inService = 0 ∧
    (profileItems [0, 0xF6, 0xF8]).isSome = true := by
  refine ⟨⟨⟨⟨rfl, ?_⟩, ?_⟩, ?_⟩, ?_, ?_, ?_⟩ <;> decide +kernel

theorem test_hyp_ServingPortDiscards :
    let s := after (.readDevice 0 0 []) .reset
    s.held = false ∧ (s.port 0).serving.isSome = true := by decide +kernel

/-- Presence and absence of the readings. -/
theorem test_hyp_ReadProgrammeReports :
    State.reset.Ready 0 ∧ (State.reset.prog 7).gd = none ∧
    ((State.reset.onProg 7 fun P => { P with gd := some (-2400), readingI := some 300 }).prog 7).gd = some (-2400) :=
  ⟨(ready_reset 0).1, by decide +kernel, by decide +kernel⟩

/-- The first and last start of a histogram read. -/
theorem test_hyp_ReadsReportTheState :
    State.reset.Ready 0 ∧ State.reset.scan.table.length ≤ 16 ∧ (word16 0 0).toNat ≤ 291 ∧ (word16 0x23 0x01).toNat = 291 ∧ binsReturned 291 16 = 1 :=
  ⟨(ready_reset 0).1, by decide, by decide, by decide, by decide⟩

/-! ### Witnesses: claims and requests on a programme -/

/-- A free record, one's own, and another's; the last record and the first number beyond. -/
theorem test_hyp_ClaimAnswers_ReleaseAnswers :
    State.reset.ReadyFull 0 ∧ State.reset.holder 8 = none ∧ (claimed).holder 8 = some 0 ∧ (claimed).ReadyFull 1 ∧
    (9 : Nat) ≤ (9 : Byte).toNat ∧ (8 : Byte).toNat = (8 : ClaimRecord).val :=
  ⟨ready_reset 0, by decide +kernel, by decide +kernel, ⟨⟨rfl, by decide +kernel⟩, by decide +kernel⟩, by decide, by decide⟩

theorem test_hyp_AbsenceDropsTheClaims :
    (claimed).held = false ∧ ((claimed).port 0).presence = .present 122880000 ∧ (claimed).holder 8 = some 0 ∧
    (∀ r, (claimed).holder r ≠ some 1) ∧ ((claimed).port 0).overtaken = false := by decide +kernel

/-- The silence timer of station 0 has run out. -/
def runOut : State := (claimed).onPort 0 fun P => { P with presence := .present 0 }

/-- R168 in its two orders: a message that is taken first keeps the claims, and an expiry that is taken first drops them. -/
theorem test_both_orders :
    let first := after (.stationAbsence 0) (after (.readNotices 0 0 []) runOut)
    let last := after (.readNotices 0 0 []) (after (.stationAbsence 0) runOut)
    (first.port 0).presence = .present 122880000 ∧ first.holder 8 = some 0 ∧ first.notices = runOut.notices ∧
    (last.port 0).presence = .present 122880000 ∧ last.holder 8 = none := by decide +kernel

/-- R164: a holder's SET_MODE before and after the declaration. -/
theorem test_hyp_AbsenceDropsTheClaims_request :
    (claimed).ReadyHolder 0 (progRecord 2) ∧ (2 : Byte).toNat = (2 : Prog).val ∧ ((claimed).port 0).overtaken = false ∧
    ((after (.stationAbsence 0) (after (.setMode 0 2 [1]) claimed)).prog 2).mode = .measure ∧
    (after (.stationAbsence 0) (after (.setMode 0 2 [1]) claimed)).holder 2 = none := by
  refine ⟨ready_claimed _ _, rfl, ?_⟩
  decide +kernel

theorem test_hyp_AbsenceDropsTheClaims_overtaken :
    let u := after (.readNotices 0 0 []) runOut
    runOut.held = false ∧ (runOut.port 0).presence = .present 0 ∧ u.held = false ∧
    u.port 0 = { runOut.port 0 with
      receive := .idle, presence := .present silenceCycles, serving := (u.port 0).serving, overtaken := true } ∧
    (∀ q, q ≠ 0 → u.port q = runOut.port q) := by decide +kernel

theorem test_hyp_ModeChangesToOffAndMeasure :
    (claimed).ReadyHolder 0 (progRecord 0) ∧ ((claimed).prog 0).mode = .off ∧
    (let s := all (active (-20)) claimed
     s.ReadyHolder 0 (progRecord 0) ∧ (s.prog 0).mode = .active) := by
  refine ⟨ready_claimed _ _, by decide +kernel, ⟨⟨⟨rfl, ?_⟩, ?_⟩, ?_⟩, ?_⟩ <;> decide +kernel

/-- From OFF alone, from OFF beside an ACTIVE member of the group, and from MEASURE beside one. -/
theorem test_hyp_ModeChangesToActive :
    ((claimed).ReadyHolder 0 (progRecord 0) ∧ (claimed).GainsSound ∧ ((claimed).prog 0).mode = .off ∧
      ∀ q : Prog, q ≠ 0 → (claimed).sameGroup 0 q = true → ((claimed).prog q).mode ≠ .active) ∧
    (let s := (all (active (-500)) (claimed true)).onProg 0 fun P => { P with mode := .off }
     s.ReadyHolder 0 (progRecord 0) ∧ s.GainsSound ∧ s.sameGroup 0 1 = true ∧ (s.prog 1).mode = .active ∧
       (s.prog 0).mode = .off) ∧
    (let s := (all (active 0) (claimed true)).onProg 0 measuring
     s.ReadyHolder 0 (progRecord 0) ∧ s.GainsSound ∧ s.sameGroup 0 1 = true ∧ (s.prog 1).mode = .active ∧
       (s.prog 0).mode = .measure) := by
  refine ⟨⟨ready_claimed _ _, gains_of 0 (by decide) (by decide) (by decide +kernel), by decide +kernel, by decide +kernel⟩,
    ⟨⟨⟨⟨rfl, ?_⟩, ?_⟩, ?_⟩, gains_of (-500) (by decide) (by decide) ?_, ?_, ?_, ?_⟩,
    ⟨⟨⟨⟨rfl, ?_⟩, ?_⟩, ?_⟩, gains_of 0 (by decide) (by decide) ?_, ?_, ?_, ?_⟩⟩ <;> decide +kernel

/-- A write of a slot in service in OFF, and of the other slot in ACTIVE. -/
theorem test_hyp_WriteProfileStores :
    (claimed).ReadyHolder 0 (progRecord 0) ∧ (claimed).GainsSound ∧
    profileItems [0, 0xF6, 0xF8] = some [.number .target (-1802)] ∧
    ¬(((claimed).prog 0).mode = .active ∧ ((claimed).prog 0).inService = 0) ∧
    (let s := all (active 0) claimed
     s.ReadyHolder 0 (progRecord 0) ∧ s.GainsSound ∧ ¬((s.prog 0).mode = .active ∧ (s.prog 0).inService = 1)) := by
  refine ⟨ready_claimed _ _, gains_of 0 (by decide) (by decide) (by decide +kernel), by decide, by decide +kernel,
    ⟨⟨⟨rfl, ?_⟩, ?_⟩, ?_⟩, gains_of 0 (by decide) (by decide) ?_, ?_⟩ <;> decide +kernel

/-- The two cases of COPY_PROFILE, and the requests that need only the claim. -/
theorem test_hyp_CopyProfileCopies_PlainProgrammeRequests_TrimAndScheduleAreSet :
    (claimed).ReadyHolder 0 (progRecord 0) ∧ (claimed).GainsSound ∧
    ((0 : Prog), (1 : Slot)) = (0, 1) ∧ ((0 : Prog), (1 : Slot)) ≠ (0, 0) ∧
    ¬(((claimed).prog 0).mode = .active ∧ ((claimed).prog 0).inService = 1) ∧ (0 : Byte).toNat = (0 : Prog).val :=
  ⟨ready_claimed _ _, gains_of 0 (by decide) (by decide) (by decide +kernel), rfl, by decide, by decide +kernel, rfl⟩

/-- FORCE_SLOT to the slot in service and to the other, in each mode. -/
theorem test_hyp_ForceSlotSwitchesAndClamps :
    (∀ m : Programme → Programme, m = id ∨ m = measuring ∨ m = active 0 → let s := all m (claimed true)
      s.ReadyHolder 0 (progRecord 0) ∧ s.GainsSound ∧ (s.prog 0).inService = 0 ∧ (s.prog 0).inService ≠ 1) := by
  rintro m (rfl | rfl | rfl) <;>
    refine ⟨⟨⟨⟨rfl, ?_⟩, ?_⟩, ?_⟩, gains_of 0 (by decide) (by decide) ?_, ?_, ?_⟩ <;> decide +kernel

/-- RESET_PROGRAMME alone and beside an ACTIVE member. -/
theorem test_hyp_ProgrammeResetClears :
    (∀ b : Bool, let s := all (active (-500)) (claimed b)
      s.ReadyHolder 0 (progRecord 0) ∧ s.GainsSound ∧ (s.prog 0).front.frameCount < 4800 ∧ s.sameGroup 0 1 = b ∧
        (s.prog 1).mode = .active ∧ (s.prog 0).mode = .active) := by
  intro b
  cases b <;>
    refine ⟨⟨⟨⟨rfl, ?_⟩, ?_⟩, ?_⟩, gains_of (-500) (by decide) (by decide) ?_, ?_, ?_, ?_, ?_⟩ <;> decide +kernel

/-- RESET_PROGRAMME in OFF and in MEASURE. -/
theorem test_hyp_ProgrammeResetClears_still :
    ∀ m : Programme → Programme, m = id ∨ m = measuring → let s := all m claimed
      s.ReadyHolder 0 (progRecord 0) ∧ s.GainsSound ∧ (s.prog 0).front.frameCount < 4800 ∧ (s.prog 0).mode ≠ .active := by
  rintro m (rfl | rfl) <;>
    refine ⟨⟨⟨⟨rfl, ?_⟩, ?_⟩, ?_⟩, gains_of 0 (by decide) (by decide) ?_, ?_, ?_⟩ <;> decide +kernel

/-- RESET_PROGRAMME with a completion due. -/
theorem test_hyp_ProgrammeResetClears_due :
    waiting.ReadyHolder 0 (progRecord 0) ∧ waiting.GainsSound ∧ 4800 ≤ (waiting.prog 0).front.frameCount := by
  refine ⟨⟨⟨⟨rfl, ?_⟩, ?_⟩, ?_⟩, gains_of 0 (by decide) (by decide) ?_, ?_⟩ <;> decide +kernel

/-- Setting a clear flag between ACTIVE programmes, and a set flag. -/
theorem test_hyp_LinkJoinsAndSplits :
    (∀ b : Bool, let s := all (active (-500)) (claimed b)
      s.ReadyFull 0 ∧ s.holder (progRecord (6 : LinkFlag).castSucc) = some 0 ∧ s.holder (progRecord (6 : LinkFlag).succ) = some 0 ∧
        s.GainsSound ∧ s.links[(6 : LinkFlag)] = b) := by
  intro b
  cases b <;>
    refine ⟨⟨⟨rfl, ?_⟩, ?_⟩, ?_, ?_, gains_of (-500) (by decide) (by decide) ?_, ?_⟩ <;> decide +kernel

/-! ### Witnesses: the device, the notices, the cue lines and the receive half -/

theorem test_hyp_ScanAndLogRequests_ConfigCueStartsTheLineAfresh_ResetDeviceWaitsForItsResponse :
    (claimed).ReadyHolder 0 deviceRecord ∧ scanPayloadOk [1, 0xFF] = true ∧
    scanPayloadOk (17 :: List.replicate 17 7) = true ∧
    (min (0x0100 : BitVec 16).toNat 255 = 255) := ⟨ready_claimed _ _, by decide, by decide, by decide⟩

theorem test_hyp_NoticeRequestsAct :
    State.reset.Ready 0 ∧ State.reset.NoticesAgree ∧ (0x1FFF : BitVec 16).toNat < 2 ^ 13 ∧
    2 ^ 13 ≤ (0x2000 : BitVec 16).toNat := by
  refine ⟨(ready_reset 0).1, ?_, by decide, by decide⟩
  intro p
  revert p
  decide +kernel

/-- A line of each action, enabled, with its run wide enough at width 0 and at width 255. -/
def line (a : CueAction) (w : Nat) (asserted : Bool) : State :=
  State.reset.onCue 0 fun c =>
    { config := { c.config with enabled := true, action := a, width := w, captureRelease := true }, asserted := asserted,
      run := 8 * w }

theorem test_hyp_CueTransitionsAct :
    ∀ a ∈ [CueAction.nothing, .restart, .swap, .pause], ∀ b ∈ [true, false], ∀ w ∈ [0, 255], let s := line a w b
      s.held = false ∧ (s.cue 0).config.enabled = true ∧ 8 * (s.cue 0).config.width ≤ (s.cue 0).run ∧
      (s.prog (s.cue 0).config.programme).front.frameCount < 4800 ∧ (s.cue 0).asserted = b := by decide +kernel

/-- The swap of a line whose programme is ACTIVE with a sound gain, and the two transitions with a completion due. -/
theorem test_hyp_CueTransitionsAct_gains :
    (all (active 0) (line .swap 0 false)).GainsSound ∧
    ∀ b ∈ [true, false], let s := (line .pause 255 b).onProg 0 fullBlock
      s.held = false ∧ (s.cue 0).config.enabled = true ∧ 8 * (s.cue 0).config.width ≤ (s.cue 0).run ∧
      4800 ≤ (s.prog (s.cue 0).config.programme).front.frameCount ∧ (s.cue 0).asserted = b :=
  ⟨gains_of 0 (by decide) (by decide) (by decide +kernel), by decide +kernel⟩

/-- An asserted line at its inactive level, idle and with its run wide enough, the only one enabled. -/
theorem test_hyp_SamplesQualifyAfterTheWidth_release :
    let s := line .pause 1 true
    let u := (s.onCue 0 fun c => { c with run := 0 })
    (u.held = false ∧ (u.cue 0).config.enabled = true ∧ (u.cue 0).run = 0 ∧
      (((0 : BitVec 4).getLsbD 0 == decide ((u.cue 0).config.polarity = .activeHigh)) != (u.cue 0).asserted) = true) ∧
    (∀ k, k ≠ 0 → (s.cue k).config.enabled = false) ∧ 8 * (s.cue 0).config.width ≤ (s.cue 0).run := by decide +kernel

theorem test_hyp_SamplesQualifyAfterTheWidth :
    let s := State.reset.onCue 0 fun c => { c with config := { c.config with enabled := true, width := 1 } }
    let u := { s with pending := List.replicate 9 (.cueLineSample 1) }
    (u.held = false ∧ (u.cue 0).config.enabled = true ∧ (u.cue 0).asserted = false ∧ (u.cue 0).run = 0 ∧
      (1 : BitVec 4).getLsbD 0 = decide ((u.cue 0).config.polarity = .activeHigh) ∧
      u.pending = List.replicate (8 * (u.cue 0).config.width + 1) (.cueLineSample 1)) ∧
    ∀ l, (s.cue l).config.enabled = true → (s.cue l).run < 8 * (s.cue l).config.width := by decide +kernel

/-- Each state of the receive half: idle, SYNC only, bytes missing, and CHECK missing. -/
theorem test_hyp_ReceiveHalfTakesBytes :
    State.reset.held = false ∧ (State.reset.port 0).receive = .idle ∧
    ∀ bytes ∈ [[], [(2 : Byte)], [2, 0x10, 3]], let s := State.reset.onPort 0 fun P => { P with receive := .receiving bytes 9 }
      s.held = false ∧ (s.port 0).receive = .receiving bytes 9 := by decide +kernel

theorem test_hyp_BytesMakeTheRequest :
    let s := { State.reset with pending := (frameMessage ((0x77 : Byte) :: 0 :: List.replicate 48 0)).map (.byteReceived 0) }
    s.held = false ∧ (s.port 0).receive = .idle ∧ (List.replicate 48 (0 : Byte)).length ≤ 48 ∧
    s.pending = (frameMessage ((0x77 : Byte) :: 0 :: List.replicate 48 0)).map (.byteReceived 0) := by decide +kernel

/-! ### Witnesses: the invariants -/

/-- With the clock present, one programme ACTIVE and the claims held, a step has a next state. -/
def running : State := { (live claimed).onProg 0 (active 0) with pending := [.frameSync] }

theorem test_hyp_step : step running = .next (after .frameSync { running with pending := [] }) := rfl

theorem test_hyp_StepKeepsTheNotices : running.HeldAtReset ∧ running.NoticesAgree := by
  refine ⟨fun h => absurd h (by decide), fun p => ?_⟩
  revert p
  decide +kernel

theorem test_hyp_StepKeepsTheClaims : running.ClaimsSound ∧ running.holder 8 = some 0 := by
  refine ⟨?_, by decide +kernel⟩
  unfold State.ClaimsSound
  decide +kernel

theorem test_hyp_StepKeepsTheGains : running.GainsSound :=
  gains_of 0 (by decide) (by decide) (by decide +kernel)

theorem test_hyp_StepKeepsTheStores : (∀ p, (running.prog p).StoresSound) ∧ running.EngineSound := by
  constructor
  · intro p
    have h : running.prog p = if p = 0 then active 0 Programme.reset else Programme.reset := by revert p; decide +kernel
    rw [h]
    split
    all_goals
      unfold Programme.StoresSound Ring.Sound
      constructorm* _ ∧ _ <;> decide +kernel
  · refine ⟨?_, ?_, ?_, ?_, ?_, ?_, ?_⟩ <;> decide

/-- An asserted PAUSE line and its count. -/
theorem test_hyp_StepKeepsTheCuePauses :
    ((line .pause 0 true).onProg 0 fun P => { P with cuePause := 1 }).CuePauseSound := by
  constructor
  · decide +kernel
  · intro p
    revert p
    decide +kernel

end Sys2Proof.Machine.Test
end

/-! PROOFS. Operations of the audio side: they read the audio side of the part alone, write it, and of all else touch nothing but the
pending bits that their events set. One notion says so for each of them, and their frames, their notices and their independence of the
ports and the queue follow from it. -/

namespace Sys2Proof.Machine

/-! ### Sets of events -/

/-- The events of `fired` fire (R190, R192). -/
def State.fireSet (s : State) (fired : SourceSet) : State :=
  s.mapNotices fun _ n => { n with pending := n.pending ||| (n.mask &&& fired) }

@[simp] theorem State.notice_fireSet (s : State) (fired : SourceSet) (q : Port) :
    (s.fireSet fired).notice q =
      { s.notice q with pending := (s.notice q).pending ||| ((s.notice q).mask &&& fired) } := by simp [State.fireSet]

theorem State.mapNotices_id (s : State) {f : Port → Notice → Notice} (h : ∀ q, f q (s.notice q) = s.notice q) :
    s.mapNotices f = s :=
  State.ext_fields rfl rfl rfl rfl rfl rfl rfl rfl rfl rfl rfl rfl rfl rfl (State.notices_ext fun q => by simp [h]) rfl

@[simp] theorem State.fireSet_zero (s : State) : s.fireSet 0 = s := s.mapNotices_id fun q => by simp

theorem State.fireSet_fireSet (s : State) (a b : SourceSet) : (s.fireSet a).fireSet b = s.fireSet (a ||| b) :=
  State.ext_fields rfl rfl rfl rfl rfl rfl rfl rfl rfl rfl rfl rfl rfl rfl
    (State.notices_ext fun q => by simp [BitVec.and_or_distrib_left, BitVec.or_assoc]) rfl

theorem State.fireIf_eq_fireSet (s : State) (b : Bool) (x : Source) : s.fireIf b x = s.fireSet (x.bitIf b) := by
  cases b with
  | false => exact s.fireSet_zero.symm
  | true => rfl

/-! ### The audio side -/

/-- The audio side of `s` in a part whose other state is that of `o`. -/
def State.within (s o : State) : State :=
  { o with monitor := s.monitor, frameOpen := s.frameOpen, tdmOut := s.tdmOut, progs := s.progs, links := s.links,
           scan := s.scan }

@[simp] theorem State.prog_within (s o : State) (p : Prog) : (s.within o).prog p = s.prog p := rfl
@[simp] theorem State.within_fireSet (s o : State) (a : SourceSet) : (s.within o).fireSet a = s.within (o.fireSet a) := rfl
@[simp] theorem State.fireSet_within (s o : State) (a : SourceSet) : (s.fireSet a).within o = s.within o := rfl

/-- At the audio side of `s`, whatever the rest of the part holds, `g` changes the audio side as it does at `s` and fires the events of
`fired`. -/
def State.Fires (s : State) (g : State → State) (fired : SourceSet) : Prop :=
  ∀ o, g (s.within o) = (g s).within (o.fireSet fired)

/-- An operation of the audio side. -/
def AudioOp (g : State → State) : Prop := ∀ s : State, ∃ fired, s.Fires g fired

theorem State.Fires.quiet {s : State} {g : State → State} (h : ∀ o, g (s.within o) = (g s).within o) : s.Fires g 0 :=
  fun o => by rw [h, o.fireSet_zero]

theorem State.Fires.comp {s : State} {g k : State → State} {a b : SourceSet} (hg : s.Fires g a) (hk : (g s).Fires k b) :
    s.Fires (fun u => k (g u)) (a ||| b) := fun o => by
  show k (g (s.within o)) = _
  rw [hg, hk, State.fireSet_fireSet]

/-- An operation that runs as `k` on the audio side of `s` fires what `k` fires. -/
theorem State.Fires.of_eq {s : State} {g k : State → State} {a : SourceSet} (h : ∀ o, g (s.within o) = k (s.within o))
    (hk : s.Fires k a) : s.Fires g a := fun o => by
  have hs : g s = k s := h s
  rw [h, hk, hs]

theorem AudioOp.comp {g k : State → State} (hg : AudioOp g) (hk : AudioOp k) : AudioOp fun u => k (g u) := fun s => by
  obtain ⟨a, ha⟩ := hg s
  obtain ⟨b, hb⟩ := hk (g s)
  exact ⟨_, ha.comp hb⟩

theorem AudioOp.quiet {g : State → State} (h : ∀ s o, g (State.within s o) = (g s).within o) : AudioOp g := fun s =>
  ⟨0, .quiet (h s)⟩

/-- An operation that chooses between two by the audio side. -/
theorem AudioOp.ite {c : State → Bool} {g k : State → State} (hc : ∀ s o, c (State.within s o) = c s) (hg : AudioOp g)
    (hk : AudioOp k) : AudioOp fun u => if c u = true then g u else k u := fun s => by
  cases h : c s with
  | true => exact (hg s).imp fun _ ha => ha.of_eq fun o => if_pos ((hc s o).trans h)
  | false => exact (hk s).imp fun _ ha => ha.of_eq fun o => if_neg (by simp [hc, h])

/-- An operation whose parameter is read off the audio side. -/
theorem AudioOp.read {α : Type} {r : State → α} {g : α → State → State} (hr : ∀ s o, r (State.within s o) = r s)
    (hg : ∀ a, AudioOp (g a)) : AudioOp fun u => g (r u) u := fun s =>
  (hg (r s) s).imp fun _ ha => ha.of_eq fun o => by rw [hr]

/-! ### What an operation of the audio side leaves -/

section Frame
variable {g : State → State} {s : State} {fired : SourceSet}

theorem State.Fires.frame (h : s.Fires g fired) : g s = (g s).within (s.fireSet fired) := h s

theorem State.Fires.notice (h : s.Fires g fired) (q : Port) : (g s).notice q =
    { s.notice q with pending := (s.notice q).pending ||| ((s.notice q).mask &&& fired) } := by
  rw [h.frame]
  exact s.notice_fireSet fired q

theorem AudioOp.held (h : AudioOp g) (s : State) : (g s).held = s.held := by
  obtain ⟨a, ha⟩ := h s
  rw [ha.frame]; rfl

theorem AudioOp.cues (h : AudioOp g) (s : State) : (g s).cues = s.cues := by
  obtain ⟨a, ha⟩ := h s
  rw [ha.frame]; rfl

theorem AudioOp.ports (h : AudioOp g) (s : State) : (g s).ports = s.ports := by
  obtain ⟨a, ha⟩ := h s
  rw [ha.frame]; rfl

theorem AudioOp.cueLog (h : AudioOp g) (s : State) : (g s).cueLog = s.cueLog := by
  obtain ⟨a, ha⟩ := h s
  rw [ha.frame]; rfl

theorem AudioOp.pending (h : AudioOp g) (s : State) : (g s).pending = s.pending := by
  obtain ⟨a, ha⟩ := h s
  rw [ha.frame]; rfl

theorem AudioOp.cue (h : AudioOp g) (s : State) (l : CueLine) : (g s).cue l = s.cue l := by
  simp only [State.cue, h.cues]

end Frame

/-! ### The operations -/

theorem audioOp_id : AudioOp fun s => s := .quiet fun _ _ => rfl

theorem audioOp_mapProgs (f : Prog → Programme → Programme) : AudioOp (State.mapProgs · f) := .quiet fun _ _ => rfl

theorem audioOp_onProg (p : Prog) (f : Programme → Programme) : AudioOp (State.onProg · p f) := .quiet fun _ _ => rfl

theorem State.fires_fire (s : State) (x : Source) : s.Fires (State.fire · x) x.bit := fun _ => rfl

theorem audioOp_fire (x : Source) : AudioOp (State.fire · x) := fun s => ⟨_, s.fires_fire x⟩

theorem audioOp_joinGroup (p : Prog) : AudioOp (State.joinGroup · p) := .quiet fun s o => by
  have h : (s.within o).joiningValue p = s.joiningValue p := rfl
  simp only [State.joinGroup, h]
  cases s.joiningValue p <;> rfl

theorem audioOp_clampGain (p : Prog) : AudioOp (State.clampGain · p) := .quiet fun s o => by
  simp only [State.clampGain, State.prog_within]
  cases (s.prog p).mode <;> rfl

theorem audioOp_stepGroup (p : Prog) : AudioOp (State.stepGroup · p) := .quiet fun s o => by
  have h : (s.within o).groupTarget p = s.groupTarget p := rfl
  simp only [State.stepGroup, h]
  cases s.groupTarget p <;> rfl

theorem audioOp_switchSlot (p : Prog) : AudioOp (State.switchSlot · p) :=
  ((audioOp_onProg p _).comp (audioOp_fire _)).comp (audioOp_clampGain p)

theorem audioOp_consultSchedule (p : Prog) (c : Count32) : AudioOp (State.consultSchedule · p c) :=
  AudioOp.read (r := fun s => (s.prog p).schedule) (g := fun k s =>
    if !k.enabled then s
    else if c = k.compareA then
      (s.onProg p fun P => { P with schedule := { k with compareB := k.compareB + k.increment } }).switchSlot p
    else if c = k.compareB then
      (s.onProg p fun P => { P with schedule := { k with compareA := k.compareA + k.increment } }).switchSlot p
    else s) (fun _ _ => rfl) fun k => by
    split
    · exact audioOp_id
    split
    · exact (audioOp_onProg p _).comp (audioOp_switchSlot p)
    split
    · exact (audioOp_onProg p _).comp (audioOp_switchSlot p)
    · exact audioOp_id

theorem audioOp_enqueue (p : Prog) (x : SubBlock) : AudioOp (State.enqueue · p x) :=
  AudioOp.read (r := fun s => s.prog p) (g := fun P s =>
    if P.paused then s
    else if P.queue.length < 4 then s.onProg p fun P => { P with queue := P.queue ++ [x] }
    else (s.onProg p fun P => { P with lost := satSucc 65535 P.lost }).fire .subblockLost) (fun _ _ => rfl) fun P => by
    split
    · exact audioOp_id
    split
    · exact audioOp_onProg p _
    · exact (audioOp_onProg p _).comp (audioOp_fire _)

theorem audioOp_complete (p : Prog) : AudioOp (State.complete · p) :=
  AudioOp.read (r := fun s => (s.prog p).front) (g := fun f s =>
    if f.due then
      let c := f.counter + 1
      ((s.onProg p fun P => { P with front := { P.front.discard with counter := c } }).consultSchedule p c).enqueue p
        { energy := f.energy, counter := c }
    else s) (fun _ _ => rfl) fun f => by
    dsimp only
    split
    · exact ((audioOp_onProg p _).comp (audioOp_consultSchedule p _)).comp (audioOp_enqueue p _)
    · exact audioOp_id

theorem audioOp_gainLaw (p : Prog) : AudioOp (State.gainLaw · p) := by
  intro s
  cases h : (s.prog p).nonHold with
  | none => exact ⟨0, .quiet fun o => by simp only [State.gainLaw, State.prog_within, h]⟩
  | some r =>
    obtain ⟨a, ha⟩ : ∃ a, s.Fires (fun u => (fun v : State => if v.head p = some p then v.stepGroup p else v)
        (u.onProg p fun P => { P with gd := some (P.desiredGain r) }) |>.onProg p Programme.supervise) a :=
      (((audioOp_onProg p _).comp (AudioOp.read (r := fun v => v.head p)
        (g := fun hd v => if hd = some p then v.stepGroup p else v) (fun _ _ => rfl) fun hd => by
          split
          · exact audioOp_stepGroup p
          · exact audioOp_id)).comp (audioOp_onProg p Programme.supervise)) s
    refine ⟨a ||| Source.settledChange.bitIf (((s.gainLaw p).prog p).settled != (s.prog p).settled), fun o => ?_⟩
    have ho := ha o
    dsimp only at ho
    simp only [State.gainLaw, State.prog_within, h, State.fireSettled, State.fireIf_eq_fireSet, State.fireSet_within] at ho ⊢
    rw [ho]
    simp only [State.within_fireSet, State.fireSet_fireSet, State.prog_within]
    rfl

theorem audioOp_visit (e : ScanEntry) : AudioOp (State.visit · e) := by
  cases e with
  | none => exact audioOp_id
  | some p =>
    exact AudioOp.ite (c := fun s => (s.prog p).mode = .off || (s.prog p).queue.isEmpty) (fun _ _ => rfl) audioOp_id
      ((audioOp_onProg p _).comp (audioOp_gainLaw p))

/-- The divider reloads and the next-entry index becomes `next` (R39, R46). -/
def State.advanceScan (next : Nat) (s : State) : State := { s with scan := { s.scan with count := s.scan.reload, next := next } }

/-- A tick that is due advances the scan and visits the entry that the index named. -/
theorem State.tick_of_due {s : State} (h : s.tickDue = true) :
    s.tick = (s.advanceScan (if s.scan.next + 1 < s.scan.table.length then s.scan.next + 1 else 0)).visit
      (s.scan.table[s.scan.next]?).join := if_pos h

theorem State.tick_of_not_due {s : State} (h : s.tickDue = false) : s.tick = s := by simp [State.tick, h]

theorem audioOp_tick : AudioOp State.tick := fun s => by
  cases h : s.tickDue with
  | false => exact ⟨0, .quiet fun o => by
      rw [State.tick_of_not_due h]
      exact State.tick_of_not_due (s := s.within o) h⟩
  | true =>
    have hv : AudioOp fun u => (u.advanceScan (if s.scan.next + 1 < s.scan.table.length then s.scan.next + 1 else 0)).visit
        (s.scan.table[s.scan.next]?).join :=
      AudioOp.comp (.quiet fun _ _ => rfl) (audioOp_visit _)
    exact (hv s).imp fun _ ha => ha.of_eq fun o => State.tick_of_due (s := s.within o) h

theorem audioOp_completes (l : List Prog) : AudioOp (l.foldl State.complete) := by
  induction l with
  | nil => exact audioOp_id
  | cons p ps ih => exact (audioOp_complete p).comp ih

/-- Every ramp whose frames have run ends (R105). -/
def State.endRamps (s : State) : State := s.mapProgs fun _ P => { P with out := P.out.endRamp }

/-- Every sub-block that is full is completed, in order of programme (R29). -/
def State.completeAll (s : State) : State := allProgs.foldl State.complete s

theorem State.carryOut_eq (s : State) : s.carryOut = s.endRamps.completeAll.tick := rfl

theorem audioOp_endRamps : AudioOp State.endRamps := audioOp_mapProgs _

theorem audioOp_completeAll : AudioOp State.completeAll := audioOp_completes allProgs

theorem audioOp_carryOut : AudioOp State.carryOut :=
  (funext State.carryOut_eq : State.carryOut = _) ▸ (audioOp_endRamps.comp audioOp_completeAll).comp audioOp_tick

theorem audioOp_loseClock : AudioOp State.loseClock := .quiet fun _ _ => rfl

/-- A frame fires OUTPUT_CLIPPED alone, where some programme clamped a sample (R112). -/
theorem State.fires_takeFrame (s : State) (slots : Vector TdmWord 16) : s.Fires (State.takeFrame · slots)
    (Source.outputClipped.bitIf (allProgs.any fun p => ((s.prog p).frame (inputPair slots p)).2.2)) := fun o => by
  simp only [State.takeFrame, State.fireIf_eq_fireSet, State.prog_within]
  rfl

theorem audioOp_takeFrame (slots : Vector TdmWord 16) : AudioOp (State.takeFrame · slots) := fun s =>
  ⟨_, s.fires_takeFrame slots⟩

end Sys2Proof.Machine

/-! PROOFS. What the operations between two frames keep of every programme: its mode, its cue-pause count, the bypass branch, the
limiter reduction, and that a ramp with no frames left is no work of theirs. -/

namespace Sys2Proof.Machine

/-- What the operations between two frames keep of a programme. -/
structure Programme.Steady (P Q : Programme) : Prop where
  mode : Q.mode = P.mode
  cuePause : Q.cuePause = P.cuePause
  bypass : Q.out.bypass = P.out.bypass
  reduction : Q.out.reduction = P.out.reduction
  rampDone : P.out.rampDone = false → Q.out.rampDone = false

/-- What the moves of a gain and the changes of a slot keep besides. -/
structure Programme.Undisturbed (P Q : Programme) : Prop extends P.Steady Q where
  front : Q.front = P.front
  deviation : Q.deviation = P.deviation

theorem Programme.Steady.refl (P : Programme) : P.Steady P := ⟨rfl, rfl, rfl, rfl, id⟩

theorem Programme.Steady.trans {P Q R : Programme} (h : P.Steady Q) (k : Q.Steady R) : P.Steady R :=
  ⟨k.mode.trans h.mode, k.cuePause.trans h.cuePause, k.bypass.trans h.bypass, k.reduction.trans h.reduction,
    fun r => k.rampDone (h.rampDone r)⟩

theorem Programme.Undisturbed.refl (P : Programme) : P.Undisturbed P := ⟨.refl P, rfl, rfl⟩

theorem Programme.Undisturbed.trans {P Q R : Programme} (h : P.Undisturbed Q) (k : Q.Undisturbed R) : P.Undisturbed R :=
  ⟨h.toSteady.trans k.toSteady, k.front.trans h.front, k.deviation.trans h.deviation⟩

/-- A programme heavy before such an operation is so after it (R116). -/
theorem Programme.Steady.heavy {P Q : Programme} (h : P.Steady Q) : Q.heavy = P.heavy := by
  simp only [Programme.heavy, h.mode, h.reduction]

/-- `s` and `t` hold each programme with `R` between. -/
def State.Between (R : Programme → Programme → Prop) (s t : State) : Prop := ∀ q, R (s.prog q) (t.prog q)

/-- One programme rewritten, by what keeps `R`. -/
theorem State.between_onProg {R : Programme → Programme → Prop} (hr : ∀ P, R P P) {f : Programme → Programme}
    (hf : ∀ P, R P (f P))
    (s : State) (p : Prog) : s.Between R (s.onProg p f) := fun q => by
  rw [State.prog_onProg]
  split
  · exact hf _
  · exact hr _

/-! ### The moves of a gain and the change of a slot -/

theorem Programme.undisturbed_moveGain (g : Int) (P : Programme) : P.Undisturbed (P.moveGain g) := by
  simp only [Programme.moveGain]
  split
  · exact .refl P
  split
  · exact ⟨⟨rfl, rfl, rfl, rfl, id⟩, rfl, rfl⟩
  · exact ⟨⟨rfl, rfl, rfl, rfl, fun _ => rfl⟩, rfl, rfl⟩

theorem State.undisturbed_moveGroup (s : State) (p : Prog) (g : Int) : s.Between Programme.Undisturbed (s.moveGroup p g) := fun q => by
  rw [State.prog_moveGroup]
  split
  · exact Programme.undisturbed_moveGain g _
  · exact .refl _

theorem State.undisturbed_joinGroup (s : State) (p : Prog) : s.Between Programme.Undisturbed (s.joinGroup p) := by
  rcases s.joinGroup_cases p with h | ⟨g, h⟩ <;> rw [h]
  · exact fun q => .refl _
  · exact s.undisturbed_moveGroup p g

theorem State.undisturbed_clampGain (s : State) (p : Prog) : s.Between Programme.Undisturbed (s.clampGain p) := by
  simp only [State.clampGain]
  split
  · exact s.undisturbed_moveGroup p _
  · exact fun q => .refl _
  · exact s.between_onProg .refl (Programme.undisturbed_moveGain _) p

theorem State.undisturbed_switchSlot (s : State) (p : Prog) : s.Between Programme.Undisturbed (s.switchSlot p) := fun q => by
  rw [State.switchSlot]
  refine Programme.Undisturbed.trans ?_ (State.undisturbed_clampGain _ p q)
  rw [State.prog_fire]
  refine s.between_onProg Programme.Undisturbed.refl ?_ p q
  exact fun _ => ⟨⟨rfl, rfl, rfl, rfl, id⟩, rfl, rfl⟩

theorem State.undisturbed_stepGroup (s : State) (p : Prog) : s.Between Programme.Undisturbed (s.stepGroup p) := by
  simp only [State.stepGroup]
  split
  · exact s.undisturbed_moveGroup p _
  · exact fun q => .refl _

/-! ### Completions -/

theorem State.undisturbed_consultSchedule (s : State) (p : Prog) (c : Count32) :
    s.Between Programme.Undisturbed (s.consultSchedule p c) := by
  have h : ∀ k, s.Between Programme.Undisturbed ((s.onProg p fun P => { P with schedule := k }).switchSlot p) := fun k q =>
    (s.between_onProg Programme.Undisturbed.refl (f := fun P => { P with schedule := k })
      (fun _ => ⟨⟨rfl, rfl, rfl, rfl, id⟩, rfl, rfl⟩) p q).trans
      (State.undisturbed_switchSlot _ p q)
  simp only [State.consultSchedule]
  split
  · exact fun q => .refl _
  split
  · exact h _
  split
  · exact h _
  · exact fun q => .refl _

theorem State.undisturbed_enqueue (s : State) (p : Prog) (x : SubBlock) : s.Between Programme.Undisturbed (s.enqueue p x) := fun q => by
  rw [(s.enqueue_frame p x).2 q]
  exact ⟨⟨rfl, rfl, rfl, rfl, id⟩, rfl, rfl⟩

/-- A completion that is due keeps all of this but its own front end, which starts a fresh sub-block (R29). -/
theorem State.complete_keeps {s : State} {p : Prog} (h : (s.prog p).front.due = true) (q : Prog) :
    (s.prog q).Steady ((s.complete p).prog q) ∧ ((s.complete p).prog q).deviation = (s.prog q).deviation ∧
    ((s.complete p).prog q).front =
      if q = p then { (s.prog p).front.discard with counter := (s.prog p).front.counter + 1 } else (s.prog q).front := by
  rw [State.complete_of_due h]
  generalize hu : (s.onProg p fun P => { P with front := { P.front.discard with counter := (s.prog p).front.counter + 1 } }) = u
  have hk := (u.undisturbed_consultSchedule p ((s.prog p).front.counter + 1) q).trans
    (State.undisturbed_enqueue _ p { energy := (s.prog p).front.energy, counter := (s.prog p).front.counter + 1 } q)
  have hs : (s.prog q).Steady (u.prog q) ∧ (u.prog q).deviation = (s.prog q).deviation ∧
      (u.prog q).front = if q = p then { (s.prog p).front.discard with counter := (s.prog p).front.counter + 1 }
        else (s.prog q).front := by
    rw [← hu, State.prog_onProg]
    split
    · subst q
      exact ⟨⟨rfl, rfl, rfl, rfl, id⟩, rfl, rfl⟩
    · exact ⟨.refl _, rfl, rfl⟩
  exact ⟨hs.1.trans hk.toSteady, hk.deviation.trans hs.2.1, hk.front.trans hs.2.2⟩

theorem State.steady_complete (s : State) (p : Prog) : s.Between Programme.Steady (s.complete p) := fun q => by
  cases h : (s.prog p).front.due with
  | true => exact (State.complete_keeps h q).1
  | false => rw [State.complete_of_not_due h]; exact .refl _

theorem State.deviation_complete (s : State) (p q : Prog) :
    ((s.complete p).prog q).deviation = (s.prog q).deviation := by
  cases h : (s.prog p).front.due with
  | true => exact (State.complete_keeps h q).2.1
  | false => rw [State.complete_of_not_due h]

/-- After its completion a programme has none due, and the others are due as before. -/
theorem State.due_complete (s : State) (p q : Prog) :
    ((s.complete p).prog q).front.due = (decide (q ≠ p) && (s.prog q).front.due) := by
  cases h : (s.prog p).front.due with
  | true =>
    rw [(State.complete_keeps h q).2.2]
    by_cases hq : q = p
    · simp [hq, FrontEnd.due, FrontEnd.discard, subBlockFrames]
    · simp [hq]
  | false =>
    rw [State.complete_of_not_due h]
    by_cases hq : q = p
    · simp [hq, h]
    · simp [hq]

theorem State.steady_completes (l : List Prog) : ∀ s : State, s.Between Programme.Steady (l.foldl State.complete s) := by
  induction l with
  | nil => exact fun s q => .refl _
  | cons p ps ih => exact fun s q => (s.steady_complete p q).trans (ih _ q)

/-! ### Visits -/

/-- What a visit keeps of a programme. -/
structure Programme.Visited (P Q : Programme) : Prop extends P.Steady Q where
  front : Q.front = P.front

theorem Programme.Visited.refl (P : Programme) : P.Visited P := ⟨.refl P, rfl⟩

theorem Programme.Visited.trans {P Q R : Programme} (h : P.Visited Q) (k : Q.Visited R) : P.Visited R :=
  ⟨h.toSteady.trans k.toSteady, k.front.trans h.front⟩

theorem Programme.visited_consume (P : Programme) : P.Visited P.consume := by
  rw [P.consume_frame]
  exact ⟨⟨rfl, rfl, rfl, rfl, id⟩, rfl⟩

theorem Programme.visited_supervise (P : Programme) : P.Visited P.supervise := by
  rw [P.supervise_frame]
  exact ⟨⟨rfl, rfl, rfl, rfl, id⟩, rfl⟩

theorem State.visited_gainLaw (s : State) (p : Prog) : s.Between Programme.Visited (s.gainLaw p) := fun q => by
  cases h : (s.prog p).nonHold with
  | none => rw [State.gainLaw_hold h]; exact .refl _
  | some r =>
    simp only [State.gainLaw, h, State.fireSettled, State.prog_fireIf]
    generalize hu : (s.onProg p fun P => { P with gd := some (P.desiredGain r) }) = u
    have h1 : (s.prog q).Visited (u.prog q) := by
      rw [← hu]
      exact s.between_onProg .refl (f := fun P => { P with gd := some (P.desiredGain r) })
        (fun _ => ⟨⟨rfl, rfl, rfl, rfl, id⟩, rfl⟩) p q
    have h2 : (u.prog q).Visited ((if u.head p = some p then u.stepGroup p else u).prog q) := by
      split
      · exact ⟨(u.undisturbed_stepGroup p q).toSteady, (u.undisturbed_stepGroup p q).front⟩
      · exact .refl _
    exact (h1.trans h2).trans (State.between_onProg .refl Programme.visited_supervise _ p q)

theorem State.visited_visit (s : State) (e : ScanEntry) : s.Between Programme.Visited (s.visit e) := by
  cases e with
  | none => exact fun q => .refl _
  | some p =>
    simp only [State.visit]
    split
    · exact fun q => .refl _
    · exact fun q => (s.between_onProg .refl (f := Programme.consumeVisit)
        (fun P => P.visited_consume.trans P.consume.visited_consume) p q).trans (State.visited_gainLaw _ p q)

theorem State.visited_tick (s : State) : s.Between Programme.Visited s.tick := by
  cases h : s.tickDue with
  | true => rw [State.tick_of_due h]; exact fun q => State.visited_visit (s.advanceScan _) _ q
  | false => rw [State.tick_of_not_due h]; exact fun q => .refl _

/-! ### What a frame left due, all together -/

@[simp] theorem OutputStage.rampDone_endRamp (o : OutputStage) : o.endRamp.rampDone = false := by
  cases hr : o.ramp with
  | none => simp [OutputStage.endRamp, OutputStage.rampDone, hr]
  | some r => by_cases hl : r.left = 0 <;>
      simp [OutputStage.endRamp, OutputStage.rampDone, OutputStage.completeRamp, OutputStage.setFactor, hr, hl]

/-- The end of a ramp touches the factor and the ramp alone. -/
theorem OutputStage.endRamp_frame (o : OutputStage) : o.endRamp = { o with applied := o.endRamp.applied, ramp := o.endRamp.ramp } := by
  simp only [OutputStage.endRamp, OutputStage.completeRamp, OutputStage.setFactor]
  split
  · split <;> rfl
  · rfl

/-- The end of a programme's ramp. -/
theorem Programme.steady_endRamp (P : Programme) : P.Steady { P with out := P.out.endRamp } := by
  refine ⟨rfl, rfl, ?_, ?_, fun _ => P.out.rampDone_endRamp⟩ <;> rw [P.out.endRamp_frame]

theorem State.steady_carryOut (s : State) : s.Between Programme.Steady s.carryOut := fun q => by
  have h1 : (s.prog q).Steady (s.endRamps.prog q) := by
    rw [State.endRamps, State.prog_mapProgs]
    exact Programme.steady_endRamp _
  exact (h1.trans (State.steady_completes allProgs _ q)).trans (State.visited_tick _ q).toSteady

end Sys2Proof.Machine

/-! PROOFS. The change of a mode by its forms (R10 to R14), and the reset of a programme with nothing due before it (R18, R19). -/

namespace Sys2Proof.Machine

/-- ACTIVE to MEASURE (R14). -/
def Programme.toMeasure (P : Programme) : Programme := { (P.moveGain 0).unsettle with mode := .measure }

/-- MEASURE to ACTIVE, before the group is joined (R13). -/
def Programme.toActive (P : Programme) : Programme := { P.unsettle with mode := .active }

namespace State
variable {s : State} {p : Prog}

theorem changeMode_same {m : Mode} (h : (s.prog p).mode = m) : s.changeMode p m = s := if_pos h

theorem changeMode_off (h : (s.prog p).mode ≠ .off) :
    s.changeMode p .off = (s.onProg p Programme.enterOff).fireSettled s p := if_neg h

theorem changeMode_off_measure (h : (s.prog p).mode = .off) :
    s.changeMode p .measure = (s.onProg p (Programme.leaveOff s.clockLost .measure)).fireSettled s p := by
  simp only [changeMode, h, reduceCtorEq, if_false, if_true]

theorem changeMode_active_measure (h : (s.prog p).mode = .active) :
    s.changeMode p .measure = (s.onProg p Programme.toMeasure).fireSettled s p := by
  simp only [changeMode, h, reduceCtorEq, if_false]
  rfl

theorem changeMode_off_active (h : (s.prog p).mode = .off) : s.changeMode p .active =
    (((s.onProg p (Programme.leaveOff s.clockLost .active)).joinGroup p).onProg p Programme.settleFactor).fireSettled s p := by
  simp only [changeMode, h, reduceCtorEq, if_false, if_true]

theorem changeMode_measure_active (h : (s.prog p).mode = .measure) :
    s.changeMode p .active = ((s.onProg p Programme.toActive).joinGroup p).fireSettled s p := by
  simp only [changeMode, h, reduceCtorEq, if_false]
  rfl

/-- Every change of a mode is none, or one of these. -/
theorem changeMode_cases (s : State) (p : Prog) (m : Mode) : s.changeMode p m = s ∨
    (∃ f ∈ [Programme.enterOff, Programme.leaveOff s.clockLost .measure, Programme.toMeasure],
      s.changeMode p m = (s.onProg p f).fireSettled s p) ∨
    (s.changeMode p m =
      (((s.onProg p (Programme.leaveOff s.clockLost .active)).joinGroup p).onProg p Programme.settleFactor).fireSettled s p) ∨
    s.changeMode p m = ((s.onProg p Programme.toActive).joinGroup p).fireSettled s p := by
  by_cases h : (s.prog p).mode = m
  · exact .inl (changeMode_same h)
  cases m with
  | off => exact .inr (.inl ⟨_, by simp, changeMode_off h⟩)
  | measure => cases hm : (s.prog p).mode with
    | off => exact .inr (.inl ⟨_, by simp, changeMode_off_measure hm⟩)
    | measure => exact absurd hm h
    | active => exact .inr (.inl ⟨_, by simp, changeMode_active_measure hm⟩)
  | active => cases hm : (s.prog p).mode with
    | off => exact .inr (.inr (.inl (changeMode_off_active hm)))
    | measure => exact .inr (.inr (.inr (changeMode_measure_active hm)))
    | active => exact absurd hm h

/-- SETTLED_CHANGE fires where an operation of the audio side, quiet itself, changed the flag of `p` (R99, R100). -/
theorem fires_fireSettled {g : State → State} (hg : s.Fires g 0) (p : Prog) :
    s.Fires (fun u => (g u).fireSettled u p)
      (Source.settledChange.bitIf (((g s).prog p).settled != (s.prog p).settled)) := fun o => by
  simp only [fireSettled, fireIf_eq_fireSet, hg o, prog_within, fireSet_zero, within_fireSet, fireSet_within]

end State

end Sys2Proof.Machine

/-! PROOFS. Invariants through a message: what the hearing, the check of a request and its service must keep for the whole to keep it. -/

namespace Sys2Proof.Machine

section Serve
variable {I : State → Prop} {s : State} {port : Port}

/-- A request served from a state with `I` leaves one with `I`. -/
def Serve.Keeps (I : State → Prop) (serve : Serve) : Prop :=
  ∀ port target payload s, I s → I (serve port target payload s).state

theorem needFull_state {k : Reply} (h : I s) (hk : I k.state) : I (needFull port s k).state := by
  unfold needFull; split <;> assumption

theorem needSize_state {n : Nat} {d : List Byte} {k : Reply} (h : I s) (hk : I k.state) : I (needSize n d s k).state := by
  unfold needSize; split <;> assumption

theorem needBelow_state {n : Nat} {b : Byte} {k : Fin n → Reply} (h : I s) (hk : ∀ i, I (k i).state) :
    I (needBelow n b s k).state := by
  unfold needBelow
  split
  · exact hk _
  · exact h

theorem needValue_state {α : Type} {x : Option α} {k : α → Reply} (h : I s) (hk : ∀ a, I (k a).state) :
    I (needValue x s k).state := by
  unfold needValue
  split
  · exact hk _
  · exact h

theorem needClaim_state {r : ClaimRecord} {k : Reply} (h : I s) (hk : I k.state) : I (needClaim port r s k).state := by
  unfold needClaim; split <;> assumption

theorem needIdleSlot_state {p : Prog} {i : Slot} {k : Reply} (h : I s) (hk : I k.state) : I (needIdleSlot p i s k).state := by
  unfold needIdleSlot; split <;> assumption

/-- A request of TARGET `p` alone, with the claim on `p`. -/
theorem programmeRequest_state {n : Nat} {d : List Byte} {b : Byte} {k : Prog → Reply} (h : I s) (hk : ∀ p, I (k p).state) :
    I (needFull port s <| needSize n d s <| needBelow 8 b s fun p => needClaim port (progRecord p) s (k p)).state :=
  needFull_state h (needSize_state h (needBelow_state h fun p => needClaim_state h (hk p)))

/-- A message keeps what its hearing, its service and its answer keep (R176). -/
theorem State.takeMessage_keeps (code target : Byte) (payload : List Byte) {serve : Serve} (h : I s)
    (hhear : ∀ s, I s → I (s.hear port))
    (hanswer : ∀ s a, I a.state → I (State.answer s port code target a)) (hserve : serve.Keeps I) :
    I (s.takeMessage port code target payload serve) := by
  rcases s.takeMessage_cases port code target payload serve with e | e | ⟨-, -, e⟩ <;> rw [e]
  · exact h
  · exact hhear s h
  · exact hanswer _ _ (hserve port target payload _ (hhear s h))

end Serve

/-! ### Cue-pause counts (R16, R144) -/

/-- Between `s` and `t` no line changed its configuration or its flag, and no programme its cue-pause count. -/
def State.SamePauses (s t : State) : Prop :=
  (∀ l, (t.cue l).asserted = (s.cue l).asserted ∧ (t.cue l).config = (s.cue l).config) ∧
  ∀ p, (t.prog p).cuePause = (s.prog p).cuePause

namespace State.SamePauses

theorem refl (s : State) : s.SamePauses s := ⟨fun _ => ⟨rfl, rfl⟩, fun _ => rfl⟩

theorem trans {s t u : State} (h : s.SamePauses t) (k : t.SamePauses u) : s.SamePauses u :=
  ⟨fun l => ⟨(k.1 l).1.trans (h.1 l).1, (k.1 l).2.trans (h.1 l).2⟩, fun p => (k.2 p).trans (h.2 p)⟩

theorem of_eq {s t : State} (hc : t.cues = s.cues) (hp : t.progs = s.progs) : s.SamePauses t :=
  ⟨fun l => by simp [State.cue, hc], fun p => by simp [State.prog, hp]⟩

/-- An operation of the audio side that keeps the programmes steady. -/
theorem of_steady {g : State → State} (hg : AudioOp g) {s : State} (hs : s.Between Programme.Steady (g s)) : s.SamePauses (g s) :=
  ⟨fun l => by simp [hg.cue s l], fun p => (hs p).cuePause⟩

theorem onProg {f : Programme → Programme} (hf : ∀ P, (f P).cuePause = P.cuePause) (s : State) (p : Prog) :
    s.SamePauses (s.onProg p f) :=
  ⟨fun _ => ⟨rfl, rfl⟩, fun q => by rw [State.prog_onProg]; split <;> simp [hf]⟩

theorem mapProgs {f : Prog → Programme → Programme} (hf : ∀ p P, (f p P).cuePause = P.cuePause) (s : State) :
    s.SamePauses (s.mapProgs f) :=
  ⟨fun _ => ⟨rfl, rfl⟩, fun q => by rw [State.prog_mapProgs, hf]⟩

theorem fireIf (s : State) (b : Bool) (x : Source) : s.SamePauses (s.fireIf b x) := .of_eq (by simp) (by simp)

theorem joinGroup (s : State) (p : Prog) : s.SamePauses (s.joinGroup p) :=
  .of_steady (g := (State.joinGroup · p)) (audioOp_joinGroup p) fun q => (s.undisturbed_joinGroup p q).toSteady

theorem clampGain (s : State) (p : Prog) : s.SamePauses (s.clampGain p) :=
  .of_steady (g := (State.clampGain · p)) (audioOp_clampGain p) fun q => (s.undisturbed_clampGain p q).toSteady

theorem switchSlot (s : State) (p : Prog) : s.SamePauses (s.switchSlot p) :=
  .of_steady (g := (State.switchSlot · p)) (audioOp_switchSlot p) fun q => (s.undisturbed_switchSlot p q).toSteady

theorem complete (s : State) (p : Prog) : s.SamePauses (s.complete p) :=
  .of_steady (g := (State.complete · p)) (audioOp_complete p) (s.steady_complete p)

theorem tick (s : State) : s.SamePauses s.tick := .of_steady audioOp_tick fun q => (s.visited_tick q).toSteady

theorem carryOut (s : State) : s.SamePauses s.carryOut := .of_steady audioOp_carryOut s.steady_carryOut

theorem takeFrame (s : State) (slots : Vector TdmWord 16) : s.SamePauses (s.takeFrame slots) :=
  ⟨fun l => by simp [(audioOp_takeFrame slots).cue s l], fun p => by
    rw [(s.takeFrame_frame slots).2.1 p]
    simp only [Programme.frame]
    split <;> rfl⟩

theorem logCue (s : State) (e : CueEntry) : s.SamePauses (s.logCue e) := by
  unfold State.logCue
  split <;> exact .of_eq rfl rfl

theorem capture (s : State) (l : CueLine) (k : CueKind) (a : CueAction) : s.SamePauses (s.capture l k a) :=
  (complete s _).trans (logCue _ _)

theorem changeMode (s : State) (p : Prog) (m : Mode) : s.SamePauses (s.changeMode p m) := by
  rcases s.changeMode_cases p m with e | ⟨f, hf, e⟩ | e | e <;> rw [e]
  · exact refl s
  · refine .trans (onProg (fun P => ?_) s p) (fireIf _ _ _)
    simp only [List.mem_cons, List.not_mem_nil, or_false] at hf
    obtain rfl | rfl | rfl := hf
    · rfl
    · rfl
    · exact (P.undisturbed_moveGain 0).cuePause
  · exact (((onProg (f := Programme.leaveOff s.clockLost .active) (fun _ => rfl) s p).trans (joinGroup _ p)).trans
      (onProg (f := Programme.settleFactor) (fun _ => rfl) _ p)).trans (fireIf _ _ _)
  · exact ((onProg (f := Programme.toActive) (fun _ => rfl) s p).trans (joinGroup _ p)).trans (fireIf _ _ _)

theorem resetProgramme (s : State) (p : Prog) : s.SamePauses (s.resetProgramme p) := by
  simp only [State.resetProgramme]
  refine .trans (.trans ((complete s p).trans (onProg (f := Programme.clearMeasurement) (fun _ => rfl) _ p)) ?_) (fireIf _ _ _)
  split
  · exact joinGroup _ p
  · exact refl _

theorem setLink (s : State) (k : LinkFlag) (b : Bool) : s.SamePauses (s.setLink k b) := by
  simp only [State.setLink]
  split
  · exact refl s
  · have hl : s.SamePauses { s with links := s.links.set k.val b } := .of_eq rfl rfl
    split
    · exact hl.trans (joinGroup _ _)
    · exact hl

theorem storeSlot (s : State) (p : Prog) (i : Slot) (f : Profile) : s.SamePauses (s.storeSlot p i f) := by
  have hs := onProg (f := fun P => { P with slots := P.slots.set i.val f }) (fun _ => rfl) s p
  simp only [State.storeSlot]
  split
  · exact hs.trans (clampGain _ p)
  · exact hs

end State.SamePauses

/-- The action of a line counts where it is PAUSE, and no action changes a line (R147). -/
theorem State.applyAction_pauses (s : State) (p : Prog) (a : CueAction) :
    (∀ l, ((s.applyAction p a).cue l).asserted = (s.cue l).asserted ∧ ((s.applyAction p a).cue l).config = (s.cue l).config) ∧
    ∀ q, ((s.applyAction p a).prog q).cuePause = (s.prog q).cuePause + (decide (a = .pause) && decide (p = q)).toNat := by
  cases a with
  | nothing => exact State.SamePauses.refl s
  | restart => exact State.SamePauses.onProg (f := Programme.restartSegment) (fun _ => rfl) s p
  | swap => exact State.SamePauses.switchSlot s p
  | pause =>
    refine ⟨fun _ => ⟨rfl, rfl⟩, fun q => ?_⟩
    by_cases e : q = p <;> simp [State.applyAction, e, eq_comm (a := p)]

/-! ### Counting the lines -/

/-- The count of lines follows a change of one line. -/
theorem countP_allLines_update {f g : CueLine → Bool} {l : CueLine} (h : ∀ k, k ≠ l → g k = f k) :
    allLines.countP g + (f l).toNat = allLines.countP f + (g l).toNat := by
  have hcount : ∀ e : CueLine → Bool, allLines.countP e = (e 0).toNat + (e 1).toNat + (e 2).toNat + (e 3).toNat := fun e => by
    simp only [allLines, List.countP_cons, List.countP_nil, Bool.toNat, Bool.cond_eq_ite]
    omega
  have hk : ∀ k, k = l ∨ g k = f k := fun k => or_iff_not_imp_left.2 (h k)
  rw [hcount, hcount]
  fin_cases l <;> simp only [Fin.isValue] at hk ⊢ <;> grind

namespace State.CuePauseSound
variable {s t : State}

/-- A line that is asserted is enabled, so that the count reads only its flag, its action and its programme. -/
theorem cuePause_eq (h : s.CuePauseSound) (p : Prog) : (s.prog p).cuePause = allLines.countP fun l => (s.cue l).pauses p := by
  rw [(h.2 p).1]
  congr 1
  funext l
  have := h.1 l
  cases ha : (s.cue l).asserted <;> simp_all [CueState.pauses]

/-- The converse of `cuePause_eq`. -/
theorem of_count (h1 : ∀ l, (s.cue l).asserted = true → (s.cue l).config.enabled = true)
    (h2 : ∀ p, (s.prog p).cuePause = allLines.countP fun l => (s.cue l).pauses p) : s.CuePauseSound := by
  refine ⟨h1, fun p => ⟨?_, ?_⟩⟩ <;> rw [h2]
  · congr 1
    funext l
    have := h1 l
    cases ha : (s.cue l).asserted <;> simp_all [CueState.pauses]
  · exact List.countP_le_length

theorem of_same (h : s.CuePauseSound) (hs : s.SamePauses t) : t.CuePauseSound := by
  obtain ⟨hc, hp⟩ := hs
  refine .of_count (fun l => ?_) fun p => ?_
  · rw [(hc l).1, (hc l).2]
    exact h.1 l
  · simp only [hp, h.cuePause_eq, CueState.pauses, (hc _).1, (hc _).2]

/-- A change of one line, with the counts following its own part in them. -/
theorem update (h : s.CuePauseSound) (l : CueLine)
    (hk : ∀ k, k ≠ l → (t.cue k).asserted = (s.cue k).asserted ∧ (t.cue k).config = (s.cue k).config)
    (hl : (t.cue l).asserted = true → (t.cue l).config.enabled = true)
    (hp : ∀ p, (t.prog p).cuePause + ((s.cue l).pauses p).toNat = (s.prog p).cuePause + ((t.cue l).pauses p).toNat) :
    t.CuePauseSound := by
  refine .of_count (fun k => ?_) fun p => ?_
  · by_cases e : k = l
    · exact e ▸ hl
    · rw [(hk k e).1, (hk k e).2]
      exact h.1 k
  · have hc := countP_allLines_update (f := fun k => (s.cue k).pauses p) (g := fun k => (t.cue k).pauses p) (l := l)
      fun k e => by simp only [CueState.pauses, hk k e]
    have := hp p
    have := h.cuePause_eq p
    omega

/-- A line that pauses a programme is counted there. -/
theorem pos (h : s.CuePauseSound) {l : CueLine} {p : Prog} (hl : (s.cue l).pauses p = true) : 1 ≤ (s.prog p).cuePause := by
  rw [h.cuePause_eq]
  exact List.countP_pos_iff.2 ⟨l, by fin_cases l <;> decide, hl⟩

/-- A line closes: its flag clears, and the programme that it paused is released (R144, R148). -/
theorem close (h : s.CuePauseSound) (l : CueLine) {g : CueState → CueState} (hg : ∀ c, (g c).asserted = false)
    (hk : ∀ k, t.cue k = if k = l then g (s.cue k) else s.cue k)
    (hp : ∀ p, (t.prog p).cuePause = (s.prog p).cuePause - ((s.cue l).pauses p).toNat) : t.CuePauseSound := by
  have hl : (t.cue l).asserted = false := by rw [hk, if_pos rfl, hg]
  refine h.update l (fun k e => by rw [hk, if_neg e]; exact ⟨rfl, rfl⟩) (fun ha => by simp [hl] at ha) fun p => ?_
  have hn : (t.cue l).pauses p = false := by simp [CueState.pauses, hl]
  rw [hp, hn]
  cases hb : (s.cue l).pauses p with
  | false => rfl
  | true =>
    have := h.pos hb
    simp only [Bool.toNat_true, Bool.toNat_false]
    omega

/-- The flag of a line sets, and its PAUSE action counts (R147). -/
theorem assertCue (h : s.CuePauseSound) {l : CueLine} (he : (s.cue l).config.enabled = true) (ha : (s.cue l).asserted = false) :
    (s.assertCue l).CuePauseSound := by
  simp only [State.assertCue]
  generalize hf : (s.cue l).config = f at he
  generalize hu : (s.onCue l fun c => { c with asserted := true, run := 0 }) = u
  have hc : ∀ k, u.cue k = if k = l then { s.cue k with asserted := true, run := 0 } else s.cue k := fun k => by
    rw [← hu, State.cue_onCue]
  obtain ⟨hvc, hvp⟩ := State.SamePauses.capture u l .asserted f.action
  obtain ⟨hwc, hwp⟩ := (u.capture l .asserted f.action).applyAction_pauses f.programme f.action
  have hasserted : (u.cue l).asserted = true := by rw [hc, if_pos rfl]
  have hconfig : (u.cue l).config = f := by rw [hc, if_pos rfl, ← hf]
  refine h.update l (fun k e => ?_) (fun _ => ?_) fun p => ?_
  · rw [(hwc k).1, (hwc k).2, (hvc k).1, (hvc k).2, hc, if_neg e]
    exact ⟨rfl, rfl⟩
  · rw [(hwc l).2, (hvc l).2, hconfig, he]
  · have hold : (s.cue l).pauses p = false := by simp [CueState.pauses, ha]
    have hprog : (u.prog p).cuePause = (s.prog p).cuePause := by rw [← hu, State.prog_onCue]
    rw [hwp, hvp, hprog, hold]
    simp only [CueState.pauses, (hwc l).1, (hwc l).2, (hvc l).1, (hvc l).2, hasserted, hconfig, Bool.true_and,
      Bool.toNat_false, Nat.add_zero]

/-- The flag of a line clears, and its PAUSE action is undone (R148). -/
theorem releaseCue (h : s.CuePauseSound) {l : CueLine} (ha : (s.cue l).asserted = true) : (s.releaseCue l).CuePauseSound := by
  simp only [State.releaseCue]
  generalize hf : (s.cue l).config = f
  have hu := State.SamePauses.complete s f.programme
  generalize hcu : s.complete f.programme = u at hu
  have hcfg : (u.cue l).config = f := (hu.1 l).2.trans hf
  have hasrt : (u.cue l).asserted = true := (hu.1 l).1.trans ha
  have hv : State.CuePauseSound (if f.action = .pause
      then (u.onCue l fun c => { c with asserted := false, run := 0 }).unpauseCue f.programme
      else u.onCue l fun c => { c with asserted := false, run := 0 }) := by
    refine (h.of_same hu).close l (g := fun c => { c with asserted := false, run := 0 }) (fun _ => rfl) (fun k => ?_) fun p => ?_
    · split <;> simp [State.unpauseCue]
    · simp only [CueState.pauses, hasrt, hcfg, Bool.true_and]
      by_cases hact : f.action = .pause
      · by_cases hp : p = f.programme <;> simp [hact, State.unpauseCue, hp, eq_comm]
      · simp [hact]
  split
  · exact hv.of_same (.capture _ _ _ _)
  · exact hv

/-- A line configured anew starts closed (R144). -/
theorem configureCue (h : s.CuePauseSound) (l : CueLine) (f : CueConfig) : (s.configureCue l f).CuePauseSound := by
  simp only [State.configureCue]
  refine h.close l (g := fun _ => { config := f, asserted := false, run := 0 }) (fun _ => rfl) (fun k => ?_) fun p => ?_
  · split <;> simp [State.unpauseCue]
  · split
    · rename_i hb
      obtain ⟨ha, hact⟩ := by simpa using hb
      by_cases hp : p = (s.cue l).config.programme <;> simp [State.unpauseCue, CueState.pauses, ha, hact, hp, eq_comm]
    · rename_i hb
      have hn : (s.cue l).pauses p = false := by
        simp only [CueState.pauses]
        revert hb
        cases (s.cue l).asserted <;> simp
        tauto
      simp [hn]

/-- A sample of a line (R145, R146). -/
theorem sampleCue (h : s.CuePauseSound) (l : CueLine) (pin : Bool) : (s.sampleCue l pin).CuePauseSound := by
  have hrun : ∀ n : CueState → Nat, (s.onCue l fun c => { c with run := n c }).CuePauseSound := fun n =>
    h.of_same ⟨fun k => by rw [State.cue_onCue]; split <;> exact ⟨rfl, rfl⟩, fun _ => rfl⟩
  simp only [State.sampleCue]
  split
  · exact h
  rename_i he
  split
  · exact hrun fun _ => 0
  split
  · unfold State.qualifyCue
    split
    · rename_i ha
      exact h.releaseCue ha
    · rename_i ha
      exact h.assertCue (by simpa using he) (by simpa using ha)
  · exact hrun fun c => c.run + 1

theorem sampleCues (h : s.CuePauseSound) (pins : BitVec 4) : (s.sampleCues pins).CuePauseSound := by
  unfold State.sampleCues
  generalize allLines = ls
  induction ls generalizing s with
  | nil => exact h
  | cons l ls ih => exact ih (h.sampleCue l _)

end State.CuePauseSound

end Sys2Proof.Machine

/-! PROOFS. The cue-pause counts through every command and every step (R16, R144). -/

namespace Sys2Proof.Machine

/-! ### The requests -/

/-- A request whose effect is on one programme keeps the counts. -/
theorem keeps_of_programme {n : Nat} {k : State → Prog → List Byte → Reply} {serve : Serve}
    (he : ∀ port target payload (s : State), serve port target payload s = needFull port s (needSize n payload s <|
      needBelow 8 target s fun p => needClaim port (progRecord p) s (k s p payload)))
    (hk : ∀ (s : State) p payload, s.SamePauses (k s p payload).state) : serve.Keeps State.CuePauseSound :=
  fun port target payload s h => by
  rw [he]
  exact programmeRequest_state h fun p => h.of_same (hk s p payload)

/-- A read keeps what it finds. -/
theorem keeps_of_read {I : State → Prop} {serve : Serve}
    (hr : ∀ port target payload (s : State), (serve port target payload s).state = s) : serve.Keeps I := fun port target payload s h => by
  rw [hr]
  exact h

theorem serveReadProgramme_state (port : Port) (target : Byte) (payload : List Byte) (s : State) :
    (serveReadProgramme port target payload s).state = s :=
  needSize_state (I := (· = s)) rfl (needBelow_state (I := (· = s)) rfl fun _ => rfl)

theorem serveReadProfile_state (port : Port) (target : Byte) (payload : List Byte) (s : State) :
    (serveReadProfile port target payload s).state = s :=
  needSize_state (I := (· = s)) rfl (needBelow_state (I := (· = s)) rfl fun _ =>
    needBelow_state (I := (· = s)) rfl fun _ => rfl)

theorem serveReadHistogram_state (port : Port) (target : Byte) (payload : List Byte) (s : State) :
    (serveReadHistogram port target payload s).state = s :=
  needSize_state (I := (· = s)) rfl (needBelow_state (I := (· = s)) rfl fun _ => by
    dsimp only
    split <;> rfl)

theorem serveReadCueLog_state (port : Port) (target : Byte) (payload : List Byte) (s : State) :
    (serveReadCueLog port target payload s).state = s := needSize_state (I := (· = s)) rfl rfl

theorem serveReadDevice_state (port : Port) (target : Byte) (payload : List Byte) (s : State) :
    (serveReadDevice port target payload s).state = s := needSize_state (I := (· = s)) rfl rfl

theorem serveReadNotices_state (port : Port) (target : Byte) (payload : List Byte) (s : State) :
    (serveReadNotices port target payload s).state = s := needSize_state (I := (· = s)) rfl rfl

namespace State.CuePauseSound
variable {s t : State}

theorem of_eq (h : s.CuePauseSound) (hc : t.cues = s.cues) (hp : t.progs = s.progs) : t.CuePauseSound := h.of_same (.of_eq hc hp)

theorem keeps_claim : Serve.Keeps State.CuePauseSound serveClaim := fun _ _ _ _ h =>
  needFull_state h (needSize_state h (needBelow_state h fun _ => by
    split
    · exact h.of_eq rfl rfl
    · exact h))

theorem keeps_release : Serve.Keeps State.CuePauseSound serveRelease := fun _ _ _ _ h =>
  needFull_state h (needSize_state h (needBelow_state h fun _ => by
    split
    · exact h.of_eq rfl rfl
    · exact h))

theorem keeps_setMode : Serve.Keeps State.CuePauseSound serveSetMode := fun _ _ _ s h =>
  needFull_state h (needSize_state h (needBelow_state h fun p => needValue_state h fun m =>
    needClaim_state h (h.of_same (.changeMode s p m))))

theorem keeps_writeProfile : Serve.Keeps State.CuePauseSound serveWriteProfile := fun _ _ _ s h =>
  needFull_state h (by
    split
    · exact h
    · exact needBelow_state h fun p => needBelow_state h fun i => needValue_state h fun _ => needClaim_state h
        (needIdleSlot_state h (h.of_same (.storeSlot s p i _))))

theorem keeps_copyProfile : Serve.Keeps State.CuePauseSound serveCopyProfile := fun _ _ _ s h =>
  needFull_state h (needSize_state h (needBelow_state h fun p => needBelow_state h fun i => needBelow_state h fun _ =>
    needBelow_state h fun _ => by
      split
      · exact h
      · exact needClaim_state h (needIdleSlot_state h (h.of_same (.storeSlot s p i _)))))

theorem keeps_setTrim : Serve.Keeps State.CuePauseSound serveSetTrim :=
  keeps_of_programme (fun _ _ _ _ => rfl) fun s p d =>
    .onProg (f := fun P => { P with trim := limit (-1200) 1200 (word16At d 0).toInt }) (fun _ => rfl) s p

theorem keeps_setSchedule : Serve.Keeps State.CuePauseSound serveSetSchedule := fun _ _ _ s h =>
  needFull_state h (needSize_state h (needBelow_state h fun p => needValue_state h fun _ =>
    needClaim_state h (h.of_same ⟨fun _ => ⟨rfl, rfl⟩, fun q => by
      dsimp only [doneClamped]
      rw [State.prog_onProg]
      split <;> rfl⟩)))

theorem keeps_forceSlot : Serve.Keeps State.CuePauseSound serveForceSlot := fun _ _ _ s h =>
  needFull_state h (needSize_state h (needBelow_state h fun p => needBelow_state h fun _ => needClaim_state h (by
    dsimp only [done]
    split
    · exact h
    · exact h.of_same (.switchSlot s p))))

theorem keeps_setCount : Serve.Keeps State.CuePauseSound serveSetCount :=
  keeps_of_programme (fun _ _ _ _ => rfl) fun s p d =>
    .onProg (f := fun P => { P with front := { P.front with counter := word32At d 0 } }) (fun _ => rfl) s p

theorem keeps_restartSegment : Serve.Keeps State.CuePauseSound serveRestartSegment :=
  keeps_of_programme (fun _ _ _ _ => rfl) fun s p _ => .onProg (f := Programme.restartSegment) (fun _ => rfl) s p

theorem keeps_pause : Serve.Keeps State.CuePauseSound servePause :=
  keeps_of_programme (fun _ _ _ _ => rfl) fun s p _ =>
    .onProg (f := fun P => { P with requestPause := true }) (fun _ => rfl) s p

theorem keeps_resume : Serve.Keeps State.CuePauseSound serveResume :=
  keeps_of_programme (fun _ _ _ _ => rfl) fun s p _ =>
    .onProg (f := fun P => { P with requestPause := false }) (fun _ => rfl) s p

theorem keeps_resetProgramme : Serve.Keeps State.CuePauseSound serveResetProgramme :=
  keeps_of_programme (fun _ _ _ _ => rfl) fun s p _ => .resetProgramme s p

theorem keeps_setLink : Serve.Keeps State.CuePauseSound serveSetLink := fun _ _ _ s h =>
  needFull_state h (needSize_state h (needBelow_state h fun k => needValue_state h fun b =>
    needClaim_state h (needClaim_state h (h.of_same (.setLink s k b)))))

theorem keeps_loadScanTable : Serve.Keeps State.CuePauseSound serveLoadScanTable := fun _ _ _ _ h =>
  needFull_state h (needValue_state h fun _ => needClaim_state h (h.of_eq rfl rfl))

theorem keeps_setScanPeriod : Serve.Keeps State.CuePauseSound serveSetScanPeriod := fun _ _ _ _ h =>
  needFull_state h (needSize_state h (needClaim_state h (h.of_eq rfl rfl)))

theorem keeps_configCue : Serve.Keeps State.CuePauseSound serveConfigCue := fun _ _ _ _ h =>
  needFull_state h (needSize_state h (needBelow_state h fun l => needBelow_state h fun _ => needValue_state h fun _ =>
    needValue_state h fun _ => needValue_state h fun _ => needValue_state h fun _ => needClaim_state h (h.configureCue l _)))

theorem keeps_dropCueEntries : Serve.Keeps State.CuePauseSound serveDropCueEntries := fun _ _ _ _ h =>
  needFull_state h (needSize_state h (h.of_eq rfl rfl))

theorem keeps_resetDevice : Serve.Keeps State.CuePauseSound serveResetDevice := fun _ _ _ _ h =>
  needFull_state h (needSize_state h (needClaim_state h (h.of_eq rfl rfl)))

theorem keeps_notice (f : SourceSet → SourceSet → Notice → Notice) : Serve.Keeps State.CuePauseSound (serveNotice f) :=
  fun _ _ _ _ h => needSize_state h (needValue_state h fun _ => h.of_eq rfl rfl)

theorem keeps_unknown : Serve.Keeps State.CuePauseSound serveUnknown := keeps_of_read fun _ _ _ _ => rfl

/-- The service of every row of the table of requests. -/
theorem keeps_requestTable : ∀ row ∈ requestTable, Serve.Keeps State.CuePauseSound row.2 := by
  simp only [requestTable, List.forall_mem_cons]
  exact ⟨keeps_of_read serveReadProgramme_state, keeps_of_read serveReadProfile_state,
    keeps_of_read serveReadHistogram_state, keeps_of_read serveReadCueLog_state,
    keeps_of_read serveReadDevice_state, keeps_of_read serveReadNotices_state, keeps_claim, keeps_release,
    keeps_setMode, keeps_writeProfile, keeps_copyProfile, keeps_setTrim, keeps_setSchedule, keeps_forceSlot, keeps_setCount,
    keeps_restartSegment, keeps_pause, keeps_resume, keeps_resetProgramme, keeps_setLink, keeps_loadScanTable,
    keeps_setScanPeriod, keeps_configCue, keeps_dropCueEntries, keeps_resetDevice, keeps_notice _, keeps_notice _,
    keeps_notice _, by simp⟩

theorem keeps_code (code : Byte) : Serve.Keeps State.CuePauseSound (serveCode code) := by
  unfold serveCode
  cases hf : requestTable.find? (·.1 = code) with
  | none => exact keeps_unknown
  | some row => exact keeps_requestTable row (List.mem_of_find?_eq_some hf)

/-! ### The ports, the resets and the clock -/

theorem takeMessage (h : s.CuePauseSound) (port : Port) (code target : Byte) (payload : List Byte) {serve : Serve}
    (hs : serve.Keeps State.CuePauseSound) : (s.takeMessage port code target payload serve).CuePauseSound :=
  State.takeMessage_keeps code target payload h (fun _ h => h.of_eq rfl rfl) (fun _ _ h => h.of_eq rfl rfl) hs

theorem receiveByte (h : s.CuePauseSound) (port : Port) (bytes : List Byte) (b : Byte) :
    (s.receiveByte port bytes b).CuePauseSound := by
  have hport : ∀ f, (s.onPort port f).CuePauseSound := fun _ => h.of_eq rfl rfl
  unfold State.receiveByte
  split
  · split <;> exact hport _
  split
  · split
    · exact h.takeMessage port _ _ _ (keeps_code _)
    · exact hport _
  · exact hport _

theorem declareAbsent (h : s.CuePauseSound) (port : Port) : (s.declareAbsent port).CuePauseSound := by
  rcases s.declareAbsent_cases port with ⟨-, e⟩ | ⟨-, -, -, e⟩ | ⟨-, -, -, e⟩ <;> rw [e]
  · exact h
  · exact h.of_eq rfl rfl
  · refine h.of_eq ?_ ?_ <;> simp [State.dropClaims]

theorem reset : State.reset.CuePauseSound := by
  have hc : ∀ l, State.reset.cue l = CueState.reset := fun l => by simp [State.cue, State.reset]
  have hp : ∀ p, State.reset.prog p = Programme.reset := fun p => by simp [State.prog, State.reset]
  refine .of_count (fun l => ?_) fun p => ?_
  · rw [hc]
    decide
  · simp [hc, hp, CueState.pauses, CueState.reset, Programme.reset]

theorem resetTo (s : State) (b : Bool) (r : ResetRecord) (a : Port → Access) : (s.resetTo b r a).CuePauseSound :=
  reset.of_eq rfl rfl

theorem carryOut (h : s.CuePauseSound) : s.carryOut.CuePauseSound := h.of_same (.carryOut s)

theorem loseClock (h : s.CuePauseSound) : s.loseClock.CuePauseSound :=
  h.of_same ⟨fun _ => ⟨rfl, rfl⟩,
    (State.SamePauses.mapProgs (f := fun _ P => { P with front := P.front.discard }) (fun _ _ => rfl) s).2⟩

theorem returnClock (h : s.CuePauseSound) : s.returnClock.CuePauseSound :=
  h.of_same ⟨fun _ => ⟨rfl, rfl⟩, (State.SamePauses.mapProgs (f := fun _ => Programme.returnClock) (fun _ _ => rfl) s).2⟩

/-! ### Every command -/

/-- Every command leaves the counts sound (R16, R144). -/
theorem exec (h : s.CuePauseSound) (c : Instr) : ∃ t, exec c s = .next t ∧ t.CuePauseSound := by
  have hif : ∀ {c : Prop} [Decidable c] {t : State}, t.CuePauseSound → (if c then t else s).CuePauseSound := fun ht => by
    split
    · exact ht
    · exact h
  have hheld : ∀ {c : Prop} [Decidable c] {t : State}, t.CuePauseSound → (if c then s else t).CuePauseSound := fun ht => by
    split
    · exact h
    · exact ht
  have hfollow : ∀ {t : State}, t.CuePauseSound → (t.followFrom s).CuePauseSound := fun ht => ht.of_eq rfl rfl
  have hport : ∀ {port : Port} f, (s.onPort port f).CuePauseSound := fun _ => h.of_eq rfl rfl
  cases c with
  | powerOn straps => exact ⟨_, rfl, resetTo ..⟩
  | pinReset => exact ⟨_, rfl, hheld (resetTo ..)⟩
  | resetEnd => exact ⟨_, rfl, hif (h.of_eq rfl rfl)⟩
  | frameSync =>
    refine ⟨_, rfl, hheld ?_⟩
    split <;> exact h.of_eq rfl rfl
  | inputFrame slots => exact ⟨_, rfl, hif (hfollow (h.carryOut.of_same (.takeFrame _ slots)))⟩
  | rampEnd p => exact ⟨_, rfl, hheld (h.of_same (.onProg (f := fun P => { P with out := P.out.endRamp }) (fun _ => rfl) s p))⟩
  | subblockCompletion p => exact ⟨_, rfl, hheld (hfollow (h.of_same (.complete s p)))⟩
  | scanTick => exact ⟨_, rfl, hheld (hfollow (h.of_same (.tick s)))⟩
  | clockLossDeclaration => exact ⟨_, rfl, hif (hfollow h.carryOut.loseClock)⟩
  | returnMeasurementStop =>
    refine ⟨_, rfl, ?_⟩
    split
    · exact h.of_eq rfl rfl
    · exact h
  | clockReturnDeclaration =>
    refine ⟨_, rfl, ?_⟩
    split
    · exact hfollow h.returnClock
    · exact h
  | cueAssertion l =>
    refine ⟨_, rfl, ?_⟩
    split
    · rename_i hc
      simp only [CueState.qualifies, Bool.and_eq_true, Bool.not_eq_true'] at hc
      obtain ⟨⟨-, he, -⟩, ha⟩ := hc
      exact hfollow (h.assertCue he ha)
    · exact h
  | cueRelease l =>
    refine ⟨_, rfl, ?_⟩
    split
    · rename_i hc
      simp only [Bool.and_eq_true] at hc
      exact hfollow (h.releaseCue hc.2)
    · exact h
  | cueLineSample pins => exact ⟨_, rfl, hheld (hfollow (h.sampleCues pins))⟩
  | stationAbsence port => exact ⟨_, rfl, h.declareAbsent port⟩
  | interByteTimeout port =>
    refine ⟨_, rfl, ?_⟩
    split
    · exact hport _
    · exact h
  | messageDiscard port cause =>
    refine ⟨_, rfl, ?_⟩
    split
    · exact hif (hport _)
    · exact h
  | servingDiscard port =>
    refine ⟨_, rfl, ?_⟩
    split
    · exact h.of_eq rfl rfl
    · exact h
  | responseEnd port =>
    refine ⟨_, rfl, ?_⟩
    split
    · split
      · exact resetTo ..
      · exact hport _
    · exact h
  | requestedReset =>
    refine ⟨_, rfl, ?_⟩
    split
    · exact resetTo ..
    · exact h
  | byteReceived port b =>
    refine ⟨_, rfl, hheld ?_⟩
    split
    · exact hif (hport _)
    · exact h.receiveByte port _ b
  | unknownRequest port code target d => exact ⟨_, rfl, h.takeMessage port code target d (keeps_code code)⟩
  | readProgramme port target d => exact ⟨_, rfl, h.takeMessage port _ target d (keeps_of_read serveReadProgramme_state)⟩
  | readProfile port target d => exact ⟨_, rfl, h.takeMessage port _ target d (keeps_of_read serveReadProfile_state)⟩
  | readHistogram port target d => exact ⟨_, rfl, h.takeMessage port _ target d (keeps_of_read serveReadHistogram_state)⟩
  | readCueLog port target d => exact ⟨_, rfl, h.takeMessage port _ target d (keeps_of_read serveReadCueLog_state)⟩
  | readDevice port target d => exact ⟨_, rfl, h.takeMessage port _ target d (keeps_of_read serveReadDevice_state)⟩
  | readNotices port target d => exact ⟨_, rfl, h.takeMessage port _ target d (keeps_of_read serveReadNotices_state)⟩
  | claim port target d => exact ⟨_, rfl, h.takeMessage port _ target d keeps_claim⟩
  | release port target d => exact ⟨_, rfl, h.takeMessage port _ target d keeps_release⟩
  | setMode port target d => exact ⟨_, rfl, h.takeMessage port _ target d keeps_setMode⟩
  | writeProfile port target d => exact ⟨_, rfl, h.takeMessage port _ target d keeps_writeProfile⟩
  | copyProfile port target d => exact ⟨_, rfl, h.takeMessage port _ target d keeps_copyProfile⟩
  | setTrim port target d => exact ⟨_, rfl, h.takeMessage port _ target d keeps_setTrim⟩
  | setSchedule port target d => exact ⟨_, rfl, h.takeMessage port _ target d keeps_setSchedule⟩
  | forceSlot port target d => exact ⟨_, rfl, h.takeMessage port _ target d keeps_forceSlot⟩
  | setCount port target d => exact ⟨_, rfl, h.takeMessage port _ target d keeps_setCount⟩
  | restartSegment port target d => exact ⟨_, rfl, h.takeMessage port _ target d keeps_restartSegment⟩
  | pause port target d => exact ⟨_, rfl, h.takeMessage port _ target d keeps_pause⟩
  | resume port target d => exact ⟨_, rfl, h.takeMessage port _ target d keeps_resume⟩
  | resetProgramme port target d => exact ⟨_, rfl, h.takeMessage port _ target d keeps_resetProgramme⟩
  | setLink port target d => exact ⟨_, rfl, h.takeMessage port _ target d keeps_setLink⟩
  | loadScanTable port target d => exact ⟨_, rfl, h.takeMessage port _ target d keeps_loadScanTable⟩
  | setScanPeriod port target d => exact ⟨_, rfl, h.takeMessage port _ target d keeps_setScanPeriod⟩
  | configCue port target d => exact ⟨_, rfl, h.takeMessage port _ target d keeps_configCue⟩
  | dropCueEntries port target d => exact ⟨_, rfl, h.takeMessage port _ target d keeps_dropCueEntries⟩
  | resetDevice port target d => exact ⟨_, rfl, h.takeMessage port _ target d keeps_resetDevice⟩
  | setNoticeMask port target d => exact ⟨_, rfl, h.takeMessage port _ target d (keeps_notice _)⟩
  | setNoticeMode port target d => exact ⟨_, rfl, h.takeMessage port _ target d (keeps_notice _)⟩
  | ackNotices port target d => exact ⟨_, rfl, h.takeMessage port _ target d (keeps_notice _)⟩

theorem idle (h : s.CuePauseSound) : s.idle.CuePauseSound := by
  unfold State.idle
  split
  · exact h
  · split <;> exact h.of_eq rfl rfl

end State.CuePauseSound

/-- Settles O60: the front command keeps the counts, and so does an idle cycle. -/
theorem stepKeepsTheCuePauses : Obligations.StepKeepsTheCuePauses := by
  intro s t h ht
  unfold step at ht
  split at ht
  · obtain rfl := Host.Outcome.next.inj ht
    exact h.idle
  · rename_i c rest _
    obtain ⟨u, hu, hs⟩ := State.CuePauseSound.exec (s := { s with pending := rest }) (h.of_eq rfl rfl) c
    obtain rfl := Host.Outcome.next.inj (hu.symm.trans ht)
    exact hs

end Sys2Proof.Machine

/-! PROOFS. The state right after a reset, the end of a hold, and the clock monitor (R1 to R7, R200). -/

namespace Sys2Proof.Machine

/-! ### The views of the state right after a reset -/

@[simp] theorem State.prog_reset (p : Prog) : State.reset.prog p = Programme.reset := by simp [State.prog, State.reset]

@[simp] theorem State.port_reset (p : Port) : State.reset.port p = PortState.reset .full := by simp [State.port, State.reset]

@[simp] theorem State.cue_reset (l : CueLine) : State.reset.cue l = CueState.reset := by simp [State.cue, State.reset]

@[simp] theorem State.holder_reset (r : ClaimRecord) : State.reset.holder r = none := by simp [State.holder, State.reset]

@[simp] theorem State.notice_reset (p : Port) : State.reset.notice p = Notice.reset := by simp [State.notice, State.reset]

theorem Histogram.n1_empty : Histogram.empty.n1 = 0 := by
  simp only [Histogram.n1, Histogram.empty, Vector.toList_replicate, List.sum_replicate, smul_zero]

theorem Programme.slots_reset (i : Slot) : Programme.reset.slots[i] = Profile.default := by simp [Programme.reset]

theorem Profile.default_inRange : Profile.default.InRange := by simp [Profile.InRange, Profile.default]

theorem Programme.reset_afterReset : Programme.reset.AfterReset :=
  ⟨rfl, rfl, rfl, rfl, Programme.slots_reset, rfl, rfl, rfl, rfl, rfl, rfl, rfl, rfl, rfl, rfl, rfl, rfl, rfl, rfl, rfl, rfl,
    Histogram.n1_empty, rfl, rfl, rfl, rfl, rfl, rfl, rfl, rfl, rfl, rfl, rfl, rfl, rfl, rfl, rfl, rfl, rfl, rfl, rfl⟩

theorem State.conditions_reset : State.reset.conditions = Source.clockLost.bit := by decide +kernel

theorem State.reset_afterReset : State.reset.AfterReset := by
  refine ⟨fun p => ?_, fun k => ?_, rfl, rfl, rfl, rfl, rfl, fun l => ?_, rfl, rfl, State.holder_reset, fun p => ?_, fun p => ?_,
    State.conditions_reset⟩
  · rw [State.prog_reset]
    exact Programme.reset_afterReset
  · simp [State.reset]
  · rw [State.cue_reset]
    exact ⟨rfl, rfl, rfl⟩
  · have h := State.port_reset p
    rw [h]
    exact ⟨rfl, rfl, rfl, State.txdLevel_of_idle (by rw [h]; rfl)⟩
  · have ha : State.reset.attention p = true := by simp [State.attention, Notice.reset]
    rw [State.notice_reset, State.attentionPin, ha]
    exact ⟨rfl, rfl, rfl⟩

theorem State.reset_noticesAgree : State.reset.NoticesAgree := fun p => by
  rw [State.notice_reset, State.conditions_reset]
  decide

theorem State.reset_gainsSound : State.reset.GainsSound := by
  have hs : ∀ i : Slot, Programme.reset.slots[i].InRange := fun i => by
    rw [Programme.slots_reset]
    exact Profile.default_inRange
  have hp : Programme.reset.profile = Profile.default := Programme.slots_reset _
  refine ⟨fun p => ?_, fun p q _ _ _ => by rw [State.prog_reset, State.prog_reset]⟩
  rw [State.prog_reset]
  refine ⟨hs, ?_, ?_, fun _ => rfl, fun g hg => by simp [Programme.reset] at hg, by decide, by decide⟩ <;> rw [hp] <;> decide

theorem Ring.empty_sound (cap : Nat) : Ring.empty.Sound cap := ⟨Nat.zero_le _, rfl, fun _ h => by simp [Ring.empty] at h⟩

theorem Programme.reset_storesSound : Programme.reset.StoresSound := by
  refine ⟨by decide, by decide, fun x h => ?_, by decide, Ring.empty_sound 4, Ring.empty_sound 30, rfl, rfl, fun i => ?_,
    by decide, ?_, by decide, by decide, fun _ => ⟨rfl, rfl⟩, rfl, rfl, rfl, by decide, fun r h => ?_⟩
  · simp [Programme.reset] at h
  · simp [Programme.reset, Histogram.empty]
  · show none.isSome = true ↔ 1 ≤ Histogram.empty.n1
    simp [Histogram.n1_empty]
  · simp [Programme.reset, OutputStage.reset] at h

theorem State.reset_engineSound : State.reset.EngineSound := by
  unfold State.EngineSound
  decide

/-- Settles O55: the invariants one by one. -/
theorem resetMeetsEveryInvariant : Obligations.ResetMeetsEveryInvariant :=
  ⟨fun _ => State.reset_afterReset, State.reset_noticesAgree, fun r p h => by simp at h, State.reset_gainsSound,
    fun p => State.prog_reset p ▸ Programme.reset_storesSound, State.reset_engineSound, State.CuePauseSound.reset,
    State.reset_afterReset⟩

/-- Settles O7. -/
theorem resetEndStartsTheTimers : Obligations.ResetEndStartsTheTimers := by
  intro s h
  refine ⟨_, congrArg Host.Outcome.next (if_pos h), rfl, fun p => ?_⟩
  simp [State.port, silenceCycles, cyclesPerMs]

/-! ### Syncs (R4, R6) -/

theorem exec_frameSync {s : State} (h : s.held = false) : exec .frameSync s = .next (match s.monitor with
    | .present _ => { s with monitor := .present lossCycles, frameOpen := true }
    | .lost none => { s with monitor := .lost (some { run := 0, sinceSync := 0 }) }
    | .lost (some m) => { s with monitor := .lost (some { m with sinceSync := 0 }) }) :=
  congrArg Host.Outcome.next (if_neg (by simp [h])) 

theorem exec_returnMeasurementStop {s : State} (h : s.held = false) : exec .returnMeasurementStop s = .next (match s.monitor with
    | .lost (some _) => { s with monitor := .lost none }
    | _ => s) := by
  show Host.Outcome.next _ = _
  rw [h]
  cases s.monitor with
  | present n => rfl
  | lost m => cases m <;> rfl

/-- Settles O9, by the monitor's three forms. -/
theorem syncsDriveTheMonitor : Obligations.SyncsDriveTheMonitor := by
  intro s h
  refine ⟨fun n hm => ?_, fun hm => ?_, fun m hm => ?_⟩ <;> rw [exec_frameSync h, exec_returnMeasurementStop h, hm] <;>
    exact ⟨rfl, rfl⟩

/-! ### The declaration of return (R6, R7) -/

/-- A programme at the declaration, with its ramp completed at once (R7, R118). -/
theorem Programme.returnClock_eq (P : Programme) : P.returnClock = { P with
    front := { P.front with filterL := .clear, filterR := .clear, sumL := 0, sumR := 0, frameCount := 0 }
    out := { P.out with
      applied := (P.out.ramp.map (·.fin)).getD P.out.applied
      ramp := none
      line := List.replicate 48 .zero
      pipeline := List.replicate 2 .zero
      bypass := List.replicate 50 .zero
      reduction := 0 } } := by
  cases h : P.out.ramp <;>
    simp [Programme.returnClock, OutputStage.completeRamp, OutputStage.fillProcessed, OutputStage.fillBypass, h,
      OutputStage.setFactor, FrontEnd.discard, FrontEnd.clearFilter]

/-- Following the conditions after an operation that fired the events of `fired`. -/
theorem State.noticesFollow_followFrom {s t : State} {fired : SourceSet}
    (h : ∀ q, t.notice q = { s.notice q with pending := (s.notice q).pending ||| ((s.notice q).mask &&& fired) }) :
    s.NoticesFollow (t.followFrom s) fired := fun q => by
  rw [State.notice_followFrom, h, State.conditions_followFrom]

/-- An operation that leaves the notice sets, followed. -/
theorem State.noticesFollow_quiet {s t : State} (h : ∀ q, t.notice q = s.notice q) : s.NoticesFollow (t.followFrom s) 0 :=
  State.noticesFollow_followFrom fun q => by simp [h]

/-- Settles O11: a running measurement alone lets the declaration act. -/
theorem returnRestartsTheAudioSide : Obligations.ReturnRestartsTheAudioSide := by
  intro s m h hm
  have he : exec .clockReturnDeclaration s = .next (s.returnClock.followFrom s) := by
    show Host.Outcome.next _ = _
    simp only [h, hm]
  refine ⟨_, he, rfl, fun p => ?_, State.noticesFollow_quiet fun _ => rfl⟩
  have hp : s.returnClock.prog p = (s.prog p).returnClock := State.prog_mapProgs s (fun _ => Programme.returnClock) p
  rw [State.prog_followFrom, hp, Programme.returnClock_eq]

end Sys2Proof.Machine

/-! PROOFS. What a frame left due, taken as commands of its own or by the command that comes next: the same (log entry 5). -/

namespace Sys2Proof.Machine

/-! ### Steps and runs -/

theorem hostRun_succ (M : Host.Core) {k : Nat} {s t : M.State} (h : M.step s = .next t) : M.run (k + 1) s = M.run k t := by
  simp only [Host.Core.run, h]

theorem hostRun_one (M : Host.Core) (s : M.State) : M.run 1 s = M.step s := by
  simp only [Host.Core.run]
  cases M.step s <;> rfl

theorem hostRun_refused (M : Host.Core) {k : Nat} {s : M.State} {r : M.Refusal} (h : M.step s = .refused r) :
    M.run (k + 1) s = .refused r := by simp only [Host.Core.run, h]

theorem run_succ {k : Nat} {s t : State} (h : step s = .next t) : run (k + 1) s = run k t := hostRun_succ core h

theorem run_one (s : State) : run 1 s = step s := hostRun_one core s
theorem step_cons {s : State} {c : Instr} {rest : List Instr} (h : s.pending = c :: rest) :
    step s = exec c { s with pending := rest } := by rw [step, h]

theorem step_nil {s : State} (h : s.pending = []) : step s = .next s.idle := by rw [step, h]

/-! ### Conditions followed twice, and once -/

/-- Conditions followed in two steps with events between them are followed in one, where no condition changes in both steps. -/
theorem Notice.follow_fired_follow (n : Notice) (was mid now fired : SourceSet) (h : (was ^^^ mid) &&& (mid ^^^ now) = 0) :
    Notice.follow { n.follow was mid with pending := (n.follow was mid).pending ||| (n.mask &&& fired) } mid now =
      Notice.follow { n with pending := n.pending ||| (n.mask &&& fired) } was now := by
  simp only [Notice.follow, Notice.mk.injEq, true_and]
  ext i hi
  have hb := congrArg (fun x => BitVec.getLsbD x i) h
  simp only [BitVec.getLsbD_eq_getElem hi, BitVec.getElem_and, BitVec.getElem_xor, BitVec.ofNat_eq_ofNat,
    BitVec.getElem_zero] at hb
  simp only [BitVec.getElem_or, BitVec.getElem_and, BitVec.getElem_not]
  generalize n.pending[i] = p, n.mask[i] = m, n.modes[i] = l, was[i] = x, mid[i] = y, now[i] = z, fired[i] = f at *
  revert p m l x y z f
  decide

/-- An operation of the audio side leaves the conditions that its audio side makes with the rest. -/
theorem State.conditions_within {s o : State} (hl : o.cueLog = s.cueLog) (hp : o.ports = s.ports) :
    (s.within o).conditions = s.conditions :=
  State.conditions_eq rfl rfl hl hp

/-- A part of the work of `g`, done and followed before `g` itself, makes no difference. -/
theorem AudioOp.followFrom_absorb {g : State → State} (hg : AudioOp g) {s u : State} (hu : g u = g s)
    (hc : (s.conditions ^^^ u.conditions) &&& (u.conditions ^^^ (g s).conditions) = 0) :
    (g (u.followFrom s)).followFrom (u.followFrom s) = (g s).followFrom s := by
  obtain ⟨fired, hf⟩ := hg u
  have hw : g (u.followFrom s) = (g u).within ((u.followFrom s).fireSet fired) := hf (u.followFrom s)
  have hcond : (g (u.followFrom s)).conditions = (g u).conditions := by
    rw [hw]
    exact State.conditions_within (hg.cueLog u).symm (hg.ports u).symm
  rw [← hu] at hc ⊢
  refine State.ext_fields ?_ ?_ ?_ ?_ ?_ ?_ ?_ ?_ ?_ ?_ ?_ ?_ ?_ ?_ (State.notices_ext fun q => ?_) ?_
  case refine_15 =>
    rw [State.notice_followFrom, State.notice_followFrom, State.conditions_followFrom, hcond, hf.notice, hw]
    show Notice.follow (((u.followFrom s).fireSet fired).notice q) _ _ = _
    rw [State.notice_fireSet, State.notice_followFrom]
    exact Notice.follow_fired_follow _ _ _ _ _ hc
  all_goals
    simp only [State.followFrom_held, State.followFrom_record, State.followFrom_resetRequest, State.followFrom_monitor,
      State.followFrom_frameOpen, State.followFrom_tdmOut, State.followFrom_progs, State.followFrom_links,
      State.followFrom_scan, State.followFrom_cues, State.followFrom_cueLog, State.followFrom_gapMark,
      State.followFrom_claims, State.followFrom_ports, State.followFrom_pending]
    rw [hw, hf.frame]
    rfl

/-- The queue is no matter to an operation of the audio side that is followed. -/
theorem AudioOp.followFrom_pending {g : State → State} (hg : AudioOp g) (s : State) (l : List Instr) :
    (g { s with pending := l }).followFrom { s with pending := l } = { (g s).followFrom s with pending := l } := by
  obtain ⟨fired, hf⟩ := hg s
  have hw : g { s with pending := l } = (g s).within (({ s with pending := l } : State).fireSet fired) := hf { s with pending := l }
  rw [hw, hf.frame]
  rfl

/-! ### Conditions between two frames -/

/-- The conditions stand where the programmes stay steady and no deviation changes. -/
theorem AudioOp.conditions_eq {g : State → State} (hg : AudioOp g) {s : State} (hl : (g s).clockLost = s.clockLost)
    (hs : s.Between Programme.Steady (g s)) (hd : ∀ p, ((g s).prog p).deviation = (s.prog p).deviation) :
    (g s).conditions = s.conditions :=
  State.conditions_congr hl (State.anyWarn_congr hd) (State.anyFault_congr hd) (by rw [hg.cueLog])
    (State.anyAbsent_congr fun p => by simp only [State.port, hg.ports]) (State.anyHeavy_congr fun p => (hs p).heavy)

/-- No condition changes twice where the first change leaves all but the deviations and the second leaves the deviations. -/
theorem State.conditions_change_once {s u v : State} (hl : u.clockLost = s.clockLost) (hg : u.cueLog = s.cueLog)
    (hp : u.ports = s.ports) (hs : s.Between Programme.Steady u) (hd : ∀ p, (v.prog p).deviation = (u.prog p).deviation) :
    (s.conditions ^^^ u.conditions) &&& (u.conditions ^^^ v.conditions) = 0 := by
  have ha : u.anyAbsent = s.anyAbsent := State.anyAbsent_congr fun p => by simp only [State.port, hp]
  have hh : u.anyHeavy = s.anyHeavy := State.anyHeavy_congr fun p => (hs p).heavy
  have hw : v.anyWarn = u.anyWarn := State.anyWarn_congr hd
  have hf : v.anyFault = u.anyFault := State.anyFault_congr hd
  apply BitVec.eq_of_getLsbD_eq
  intro i hi
  simp only [BitVec.getLsbD_and, BitVec.getLsbD_xor, State.conditions_getLsbD, hl, hg, ha, hh, hw, hf]
  by_cases h2 : i = 2
  · simp [h2]
  · by_cases h3 : i = 3
    · simp [h3]
    · simp [h2, h3]

/-! ### What completions and ticks leave of the rest of the audio side -/

theorem State.switchSlot_frame (s : State) (p : Prog) :
    s.switchSlot p = { s with progs := (s.switchSlot p).progs, notices := (s.switchSlot p).notices } := by
  rw [State.switchSlot, State.clampGain_frame]
  rfl

theorem State.consultSchedule_frame (s : State) (p : Prog) (c : Count32) :
    s.consultSchedule p c = { s with progs := (s.consultSchedule p c).progs, notices := (s.consultSchedule p c).notices } := by
  have h : ∀ k, (s.onProg p fun P => { P with schedule := k }).switchSlot p = { s with
      progs := ((s.onProg p fun P => { P with schedule := k }).switchSlot p).progs
      notices := ((s.onProg p fun P => { P with schedule := k }).switchSlot p).notices } := fun k =>
    State.switchSlot_frame _ p
  simp only [State.consultSchedule]
  split
  · rfl
  split
  · exact h _
  split
  · exact h _
  · rfl

theorem State.complete_frame (s : State) (p : Prog) :
    s.complete p = { s with progs := (s.complete p).progs, notices := (s.complete p).notices } := by
  cases h : (s.prog p).front.due with
  | false => rw [State.complete_of_not_due h]
  | true =>
    rw [State.complete_of_due h, (State.enqueue_frame _ _ _).1, State.consultSchedule_frame]
    rfl

theorem State.visit_frame (s : State) (e : ScanEntry) :
    s.visit e = { s with progs := (s.visit e).progs, notices := (s.visit e).notices } := by
  cases e with
  | none => rfl
  | some p =>
    simp only [State.visit]
    split
    · rfl
    · rw [State.gainLaw_frame]
      rfl

theorem State.tick_frame {s : State} (h : s.tickDue = true) : s.tick = { s with
    progs := s.tick.progs, notices := s.tick.notices
    scan := { s.scan with
      count := s.scan.reload, next := if s.scan.next + 1 < s.scan.table.length then s.scan.next + 1 else 0 } } := by
  rw [State.tick_of_due h, State.visit_frame]
  rfl

/-! ### One due command at a time -/

/-- The rest of a filtered list, as a filter. -/
theorem filter_ne_of_cons {α : Type} [DecidableEq α] {l : List α} (hl : l.Nodup) {f : α → Bool} {a : α} {r : List α}
    (h : l.filter f = a :: r) : l.filter (fun b => decide (b ≠ a) && f b) = r := by
  have hn : (a :: r).Nodup := h ▸ hl.filter f
  rw [← List.filter_filter, h, List.filter_cons_of_neg (by simp), List.filter_eq_self.2]
  intro b hb
  simpa using fun e : b = a => (List.nodup_cons.1 hn).1 (e ▸ hb)

theorem allProgs_nodup : allProgs.Nodup := by decide

theorem OutputStage.endRamp_of_not_done {o : OutputStage} (h : o.rampDone = false) : o.endRamp = o := by
  simp [OutputStage.endRamp, h]

theorem State.endRamps_of_none {s : State} (h : ∀ p, (s.prog p).out.rampDone = false) : s.endRamps = s :=
  State.ext_fields rfl rfl rfl rfl rfl rfl
    (State.progs_ext fun p => by
      rw [State.endRamps, State.prog_mapProgs, OutputStage.endRamp_of_not_done (h p)])
    rfl rfl rfl rfl rfl rfl rfl rfl rfl

/-- The end of one ramp of `s`, done before the others (R105). -/
theorem State.carryOut_endRamp (s : State) (p : Prog) :
    (s.onProg p fun P => { P with out := P.out.endRamp }).carryOut = s.carryOut := by
  have h : (s.onProg p fun P => { P with out := P.out.endRamp }).endRamps = s.endRamps := by
    refine State.ext_fields rfl rfl rfl rfl rfl rfl (State.progs_ext fun q => ?_) rfl rfl rfl rfl rfl rfl rfl rfl rfl
    simp only [State.endRamps, State.prog_mapProgs, State.prog_onProg]
    split
    · simp only [OutputStage.endRamp_of_not_done (OutputStage.rampDone_endRamp _)]
    · rfl
  rw [State.carryOut_eq, State.carryOut_eq, h]

/-- The first of the completions that are due, done before the others (R29). -/
theorem State.completes_complete {s : State} {p : Prog} {l r : List Prog} (h : l.filter (fun q => (s.prog q).front.due) = p :: r) :
    l.foldl State.complete (s.complete p) = l.foldl State.complete s := by
  induction l with
  | nil => simp at h
  | cons q qs ih =>
    rw [List.foldl_cons, List.foldl_cons]
    cases hq : (s.prog q).front.due with
    | true =>
      obtain rfl : q = p := by simpa [hq] using congrArg List.head? h
      rw [State.complete_of_not_due (s := s.complete q)]
      rw [State.due_complete]
      simp
    | false =>
      rw [List.filter_cons_of_neg (by simp [hq])] at h
      rw [State.complete_of_not_due hq, State.complete_of_not_due (s := s.complete p) (by rw [State.due_complete, hq, Bool.and_false])]
      exact ih h

theorem State.carryOut_complete {s : State} {p : Prog} {r : List Prog} (hr : ∀ q, (s.prog q).out.rampDone = false)
    (h : allProgs.filter (fun q => (s.prog q).front.due) = p :: r) : (s.complete p).carryOut = s.carryOut := by
  rw [State.carryOut_eq, State.carryOut_eq, State.endRamps_of_none hr,
    State.endRamps_of_none fun q => (s.steady_complete p q).rampDone (hr q), State.completeAll, State.completeAll,
    State.completes_complete h]

/-- With no ramp and no sub-block due, the tick is all there is to do. -/
theorem State.carryOut_of_tick {s : State} (hr : ∀ q, (s.prog q).out.rampDone = false) (hd : ∀ q, (s.prog q).front.due = false) :
    s.carryOut = s.tick := by
  have h : ∀ l : List Prog, l.foldl State.complete s = s := fun l => by
    induction l with
    | nil => rfl
    | cons q qs ih => rw [List.foldl_cons, State.complete_of_not_due (hd q), ih]
  rw [State.carryOut_eq, State.endRamps_of_none hr, State.completeAll, h]

/-- What is due, from its three parts. -/
theorem State.dueEvents_eq {s : State} {ramps blocks : List Prog} {b : Bool}
    (hr : allProgs.filter (fun p => (s.prog p).out.rampDone) = ramps) (hd : allProgs.filter (fun p => (s.prog p).front.due) = blocks)
    (ht : s.tickDue = b) :
    s.dueEvents = ramps.map .rampEnd ++ blocks.map .subblockCompletion ++ if b then [.scanTick] else [] := by
  rw [State.dueEvents, hr, hd, ht]

/-- What the execution of the first due event `e` of `s` leaves: the other events due, the monitor and the frame as they stood, and for
every operation `k` of the audio side that keeps the deviations, the same outcome of all that is due followed by `k`. -/
structure State.Relieves (s t : State) (es : List Instr) : Prop where
  due : t.dueEvents = es
  held : t.held = s.held
  monitor : t.monitor = s.monitor
  frameOpen : t.frameOpen = s.frameOpen
  reload : t.scan.reload = s.scan.reload
  pending : t.pending = s.pending
  outcome : ∀ k, AudioOp k → (∀ u p, ((k u).prog p).deviation = (u.prog p).deviation) →
    (k t.carryOut).followFrom t = (k s.carryOut).followFrom s

theorem State.relieves_rampEnd {s : State} {p : Prog} {ramps : List Prog}
    (hr : allProgs.filter (fun p => (s.prog p).out.rampDone) = p :: ramps) :
    s.Relieves (s.onProg p fun P => { P with out := P.out.endRamp })
      (ramps.map .rampEnd ++ (allProgs.filter fun p => (s.prog p).front.due).map .subblockCompletion ++
        if s.tickDue then [.scanTick] else []) := by
  have hprog : ∀ q, (s.onProg p fun P => { P with out := P.out.endRamp }).prog q =
      if q = p then { s.prog q with out := (s.prog q).out.endRamp } else s.prog q := fun q => State.prog_onProg s p _ q
  refine ⟨State.dueEvents_eq ?_ ?_ rfl, rfl, rfl, rfl, rfl, rfl, fun k _ _ => ?_⟩
  · rw [← filter_ne_of_cons allProgs_nodup hr]
    congr 1
    funext q
    rw [hprog]
    by_cases e : q = p <;> simp [e]
  · congr 1
    funext q
    rw [hprog]
    split <;> rfl
  · have hc : (s.onProg p fun P => { P with out := P.out.endRamp }).conditions = s.conditions :=
      (audioOp_onProg p fun P => { P with out := P.out.endRamp }).conditions_eq rfl
        (s.between_onProg .refl Programme.steady_endRamp p) fun q => by rw [hprog]; split <;> rfl
    rw [State.carryOut_endRamp, State.followFrom, State.followFrom, hc]

theorem State.relieves_completion {s : State} {p : Prog} {blocks : List Prog} (hr : ∀ q, (s.prog q).out.rampDone = false)
    (hd : allProgs.filter (fun p => (s.prog p).front.due) = p :: blocks) :
    s.Relieves ((s.complete p).followFrom s) (blocks.map .subblockCompletion ++ if s.tickDue then [.scanTick] else []) := by
  have hf := s.complete_frame p
  have hl : (s.complete p).clockLost = s.clockLost := by rw [hf]; rfl
  refine ⟨State.dueEvents_eq (ramps := []) ?_ ?_ ?_, ?_, ?_, ?_, ?_, ?_, fun k hk _ => ?_⟩
  · exact List.filter_eq_nil_iff.2 fun q _ => by
      simp [(s.steady_complete p q).rampDone (hr q)]
  · rw [← filter_ne_of_cons allProgs_nodup hd]
    congr 1
    funext q
    rw [State.prog_followFrom, State.due_complete]
  · show (s.complete p).tickDue = s.tickDue
    rw [hf]
    rfl
  case refine_9 =>
    refine (audioOp_carryOut.comp hk).followFrom_absorb (by rw [State.carryOut_complete hr hd]) ?_
    rw [(audioOp_complete p).conditions_eq hl (s.steady_complete p) (s.deviation_complete p), BitVec.xor_self, BitVec.zero_and]
    rfl
  all_goals
    simp only [State.followFrom_held, State.followFrom_monitor, State.followFrom_frameOpen, State.followFrom_scan,
      State.followFrom_pending]
    rw [hf]

theorem State.relieves_tick {s : State} (hr : ∀ q, (s.prog q).out.rampDone = false) (hd : ∀ q, (s.prog q).front.due = false)
    (ht : s.tickDue = true) (hn : 1 ≤ s.scan.reload) : s.Relieves (s.tick.followFrom s) [] := by
  have hf := State.tick_frame ht
  have hv := s.visited_tick
  have hdue : s.tick.dueEvents = [] := State.dueEvents_eq (ramps := []) (blocks := []) (b := false)
    (List.filter_eq_nil_iff.2 fun q _ => by simp [(hv q).rampDone (hr q)])
    (List.filter_eq_nil_iff.2 fun q _ => by simp [(hv q).front, hd q])
    (by
      have hcount : s.tick.scan.count = s.scan.reload := by rw [hf]
      simp only [State.tickDue, hcount, Bool.and_eq_false_imp, decide_eq_false_iff_not]
      omega)
  refine ⟨hdue, ?_, ?_, ?_, ?_, ?_, fun k hk hkd => ?_⟩
  case refine_6 =>
    refine (audioOp_carryOut.comp hk).followFrom_absorb (s := s) (u := s.tick) ?_ ?_
    · rw [State.carryOut_of_not_due hdue, State.carryOut_of_tick hr hd]
    · rw [State.carryOut_of_tick hr hd]
      exact State.conditions_change_once (by rw [hf]; rfl) (audioOp_tick.cueLog s) (audioOp_tick.ports s)
        (fun q => (hv q).toSteady) (hkd s.tick)
  all_goals
    simp only [State.followFrom_held, State.followFrom_monitor, State.followFrom_frameOpen, State.followFrom_scan,
      State.followFrom_pending]
    rw [hf]

/-- The first due event, executed, relieves the part of itself alone. -/
theorem State.exec_due {s : State} {e : Instr} {es : List Instr} (h : s.dueEvents = e :: es) (hh : s.held = false)
    (hn : 1 ≤ s.scan.reload) : ∃ t, exec e s = .next t ∧ s.Relieves t es := by
  have hne : ¬ s.held = true := by simp [hh]
  cases hr : allProgs.filter fun p => (s.prog p).out.rampDone with
  | cons p ramps =>
    rw [State.dueEvents_eq hr rfl rfl, List.map_cons, List.cons_append, List.cons_append, List.cons.injEq] at h
    obtain ⟨rfl, rfl⟩ := h
    exact ⟨_, congrArg Host.Outcome.next (if_neg hne), State.relieves_rampEnd hr⟩
  | nil =>
    have hr' : ∀ q, (s.prog q).out.rampDone = false := fun q => by
      simpa using List.filter_eq_nil_iff.1 hr q (mem_allProgs q)
    cases hd : allProgs.filter fun p => (s.prog p).front.due with
    | cons p blocks =>
      rw [State.dueEvents_eq hr hd rfl, List.map_nil, List.nil_append, List.map_cons, List.cons_append, List.cons.injEq] at h
      obtain ⟨rfl, rfl⟩ := h
      exact ⟨_, congrArg Host.Outcome.next (if_neg hne), State.relieves_completion hr' hd⟩
    | nil =>
      have hd' : ∀ q, (s.prog q).front.due = false := fun q => by
        simpa using List.filter_eq_nil_iff.1 hd q (mem_allProgs q)
      cases ht : s.tickDue with
      | false => rw [State.dueEvents_eq hr hd ht] at h; simp at h
      | true =>
        rw [State.dueEvents_eq hr hd ht, List.map_nil, List.map_nil, List.nil_append, List.nil_append, if_pos rfl,
          List.cons.injEq] at h
        obtain ⟨rfl, rfl⟩ := h
        exact ⟨_, congrArg Host.Outcome.next (if_neg hne), State.relieves_tick hr' hd' ht hn⟩

/-! ### All of them -/

/-- Where `ready`, the command `c` carries out what is due, does `k`, and has the conditions followed. -/
structure CarriesOut (c : Instr) (k : State → State) (ready : State → Prop) : Prop where
  audio : AudioOp k
  deviation : ∀ u p, ((k u).prog p).deviation = (u.prog p).deviation
  meets : ∀ s, s.held = false → ready s → exec c s = .next ((k s.carryOut).followFrom s)
  ready : ∀ {s t : State}, t.monitor = s.monitor → t.frameOpen = s.frameOpen → ready s → ready t

namespace CarriesOut
variable {c : Instr} {k : State → State} {ready : State → Prop}

/-- The command on a state with another queue. -/
theorem exec_pending (h : CarriesOut c k ready) {s : State} (hh : s.held = false) (hs : ready s) (l : List Instr) :
    exec c { s with pending := l } = .next { (k s.carryOut).followFrom s with pending := l } := by
  rw [h.meets { s with pending := l } hh (h.ready (s := s) rfl rfl hs)]
  exact congrArg Host.Outcome.next ((audioOp_carryOut.comp h.audio).followFrom_pending s l)

/-- The due events before such a command come to the command alone. -/
theorem run_due (h : CarriesOut c k ready) :
    ∀ (es : List Instr) (s : State), s.dueEvents = es → s.held = false → ready s → 1 ≤ s.scan.reload → s.pending = es ++ [c] →
      run (es.length + 1) s = exec c { s with pending := [] }
  | [], s, _, _, _, _, hp => by rw [List.length_nil, run_one, step_cons hp]
  | e :: es, s, hd, hh, hs, hn, hp => by
    obtain ⟨t, ht, hr⟩ := State.exec_due (s := { s with pending := es ++ [c] }) hd hh hn
    have hth : t.held = false := hr.held.trans hh
    have hts : ready t := h.ready (s := s) hr.monitor hr.frameOpen hs
    rw [List.length_cons, run_succ ((step_cons hp).trans ht), h.run_due es t hr.due hth hts (hr.reload ▸ hn) hr.pending,
      h.exec_pending hth hts, h.exec_pending hh hs, hr.outcome k h.audio h.deviation]
    exact congrArg (fun u : State => Host.Outcome.next { u with pending := [] })
      ((audioOp_carryOut.comp h.audio).followFrom_pending s (es ++ [c]))

end CarriesOut

end Sys2Proof.Machine

/-! PROOFS. The idle cycles of the control clock, and the loss of the clock (R4 to R6, R165, R175). -/

namespace Sys2Proof.Machine

/-! ### The timers that run out -/

theorem Monitor.mem_expiries {m : Monitor} {c : Instr} : c ∈ m.expiries ↔
    (c = .clockLossDeclaration ∧ m = .present 0) ∨
    (∃ r, m = .lost (some r) ∧ lossCycles ≤ r.sinceSync ∧ c = .returnMeasurementStop) ∨
    ∃ r, m = .lost (some r) ∧ r.sinceSync < lossCycles ∧ returnCycles ≤ r.run ∧ c = .clockReturnDeclaration := by
  rcases m with t | _ | r
  · by_cases h : t = 0 <;> simp [Monitor.expiries, h]
  · simp [Monitor.expiries]
  · by_cases h : lossCycles ≤ r.sinceSync
    · simp [Monitor.expiries, h, Nat.not_lt.2 h]
    · by_cases h2 : returnCycles ≤ r.run <;> simp [Monitor.expiries, h, h2, Nat.lt_of_not_le h]

theorem Monitor.expiries_nodup (m : Monitor) : m.expiries.Nodup := by
  rcases m with t | _ | r <;> simp only [Monitor.expiries]
  · split <;> simp
  · simp
  · split
    · simp
    · split <;> simp

theorem PortState.mem_expiries {P : PortState} {p : Port} {c : Instr} : c ∈ P.expiries p ↔
    (c = .interByteTimeout p ∧ ∃ bytes, P.receive = .receiving bytes 0) ∨ (c = .stationAbsence p ∧ P.presence = .present 0) := by
  rcases hr : P.receive with _ | ⟨bytes, _ | n⟩ <;> rcases hp : P.presence with (_ | k) | _ <;>
    simp [PortState.expiries, hr, hp]

theorem PortState.expiries_nodup (P : PortState) (p : Port) : (P.expiries p).Nodup := by
  unfold PortState.expiries
  split <;> split <;> simp

/-! ### A cycle -/

@[simp] theorem State.port_cycle (s : State) (p : Port) : s.cycle.port p = (s.port p).cycle := by simp [State.cycle, State.port]

theorem State.cycle_frame (s : State) : s.cycle = { s with
    monitor := s.monitor.cycle, ports := s.cycle.ports
    pending := s.pending ++ s.monitor.cycle.expiries ++ allPorts.flatMap fun p => (s.port p).cycle.expiries p } := rfl

theorem State.mem_cycle_pending {s : State} (h : s.pending = []) {c : Instr} :
    c ∈ s.cycle.pending ↔ c ∈ s.monitor.cycle.expiries ∨ ∃ p, c ∈ (s.port p).cycle.expiries p := by
  have hp : ∀ p : Port, p ∈ allPorts := by decide
  rw [s.cycle_frame]
  simp [h, hp]

theorem State.cycle_pending_nodup {s : State} (h : s.pending = []) : s.cycle.pending.Nodup := by
  rw [s.cycle_frame]
  simp only [h, List.nil_append]
  refine List.Nodup.append (Monitor.expiries_nodup _) (List.nodup_flatMap.2 ⟨fun p _ => PortState.expiries_nodup _ p, ?_⟩) ?_
  · refine List.Pairwise.imp (R := (· ≠ ·)) (fun {p q} hpq => ?_) (by decide : allPorts.Nodup)
    intro c hc hc'
    rw [PortState.mem_expiries] at hc hc'
    rcases hc with ⟨rfl, -⟩ | ⟨rfl, -⟩ <;> simp [hpq] at hc'
  · intro c hc hc'
    obtain ⟨p, -, hc'⟩ := List.mem_flatMap.1 hc'
    rw [PortState.mem_expiries] at hc'
    rw [Monitor.mem_expiries] at hc
    rcases hc' with ⟨rfl, -⟩ | ⟨rfl, -⟩ <;> simp at hc

theorem PortState.cycle_presence (P : PortState) :
    (∀ n, P.presence = .present n → P.cycle.presence = .present (n - 1)) ∧ (P.presence = .absent → P.cycle.presence = .absent) := by
  constructor
  · intro n h
    simp only [PortState.cycle, h]
  · intro h
    simp only [PortState.cycle, h]

theorem PortState.cycle_receive (P : PortState) :
    (∀ bytes n, P.receive = .receiving bytes n → P.cycle.receive = .receiving bytes (n - 1)) ∧
    (P.receive = .idle → P.cycle.receive = .idle) := by
  constructor
  · intro bytes n h
    simp only [PortState.cycle, h]
  · intro h
    simp only [PortState.cycle, h]

/-- Only a timer that runs can run out. -/
theorem PortState.cycle_running (P : PortState) :
    (∀ n, P.cycle.presence = .present n → ∃ k, P.presence = .present k ∧ n = k - 1) ∧
    (∀ bytes n, P.cycle.receive = .receiving bytes n → ∃ k, P.receive = .receiving bytes k ∧ n = k - 1) := by
  constructor
  · intro n h
    cases hp : P.presence with
    | absent => rw [P.cycle_presence.2 hp] at h; simp at h
    | present k =>
      rw [P.cycle_presence.1 k hp, Presence.present.injEq] at h
      exact ⟨k, rfl, h.symm⟩
  · intro bytes n h
    cases hr : P.receive with
    | idle => rw [P.cycle_receive.2 hr] at h; simp at h
    | receiving bs k =>
      rw [P.cycle_receive.1 bs k hr, Receiving.receiving.injEq] at h
      exact ⟨k, by rw [h.1], h.2.symm⟩

/-- The expiry of a silence timer is queued by the cycle that runs it out. -/
theorem State.stationAbsence_mem_cycle {s : State} (h : s.pending = []) (p : Port) :
    .stationAbsence p ∈ s.cycle.pending ↔ (s.port p).cycle.presence = .present 0 := by
  rw [State.mem_cycle_pending h]
  simp [Monitor.mem_expiries, PortState.mem_expiries]

theorem State.interByteTimeout_mem_cycle {s : State} (h : s.pending = []) (p : Port) :
    .interByteTimeout p ∈ s.cycle.pending ↔ ∃ bytes, (s.port p).cycle.receive = .receiving bytes 0 := by
  rw [State.mem_cycle_pending h]
  simp [Monitor.mem_expiries, PortState.mem_expiries]

/-- The declarations of the monitor come from its own timers. -/
theorem State.monitor_mem_cycle {s : State} (h : s.pending = []) {c : Instr}
    (hc : c = .clockLossDeclaration ∨ c = .returnMeasurementStop ∨ c = .clockReturnDeclaration) :
    c ∈ s.cycle.pending ↔ c ∈ s.monitor.cycle.expiries := by
  rw [State.mem_cycle_pending h]
  rcases hc with rfl | rfl | rfl <;> simp [PortState.mem_expiries]

theorem State.idle_of_due {s : State} (hh : s.held = false) (hd : s.dueEvents ≠ []) : s.idle = { s with pending := s.dueEvents } := by
  unfold State.idle
  rw [if_neg (by simp [hh])]
  split
  · exact absurd ‹_› hd
  · rfl

theorem State.idle_of_not_due {s : State} (hh : s.held = false) (hd : s.dueEvents = []) : s.idle = s.cycle := by
  unfold State.idle
  rw [if_neg (by simp [hh]), hd]

/-- The due events are those of the ramps that have run, of the full sub-blocks and of the divider, each in order of number. -/
theorem State.dueEvents_spec (s : State) : ∃ ramps blocks : List Prog,
    s.dueEvents = ramps.map .rampEnd ++ blocks.map .subblockCompletion ++
      (if s.clockLost = false ∧ s.scan.count = 0 then [.scanTick] else []) ∧
    ramps.Pairwise (· < ·) ∧ blocks.Pairwise (· < ·) ∧
    (∀ p, p ∈ ramps ↔ ∃ r, (s.prog p).out.ramp = some r ∧ r.left = 0) ∧
    ∀ p, p ∈ blocks ↔ 4800 ≤ (s.prog p).front.frameCount := by
  have hsorted : allProgs.Pairwise (· < ·) := by decide
  refine ⟨_, _, ?_, hsorted.filter fun p => (s.prog p).out.rampDone, hsorted.filter fun p => (s.prog p).front.due, fun p => ?_,
    fun p => ?_⟩
  · rw [State.dueEvents_eq rfl rfl rfl]
    simp [State.tickDue]
  · simp only [List.mem_filter, mem_allProgs, true_and, OutputStage.rampDone]
    cases (s.prog p).out.ramp <;> simp
  · simp only [List.mem_filter, mem_allProgs, true_and, FrontEnd.due]
    exact decide_eq_true_iff

/-- Settles O3: a hold, the due events, and the timers one by one. -/
theorem emptyQueuePassesACycle : Obligations.EmptyQueuePassesACycle := by
  intro s hp
  refine ⟨fun hh => ?_, fun hh hd => ?_, s.dueEvents_spec, fun hh hd => ⟨s.cycle, ?_, s.cycle_frame, fun n hm => ⟨?_, ?_⟩,
    fun hm => ?_, fun m hm => ⟨?_, ?_, ?_⟩, fun p n hn => ⟨?_, ?_⟩, fun p bytes n hn => ⟨?_, ?_⟩, fun p => ?_,
    State.cycle_pending_nodup hp, fun c hc => ?_⟩⟩
  · rw [step_nil hp, State.idle, if_pos hh]
  · rw [step_nil hp, State.idle_of_due hh hd]
  · rw [step_nil hp, State.idle_of_not_due hh hd]
  · rw [s.cycle_frame, hm]
    rfl
  · rw [State.monitor_mem_cycle hp (.inl rfl), hm, Monitor.mem_expiries]
    simp [Monitor.cycle]
    omega
  · rw [s.cycle_frame, hm]
    rfl
  · rw [s.cycle_frame, hm]
    rfl
  · rw [State.monitor_mem_cycle hp (.inr (.inl rfl)), hm, Monitor.mem_expiries]
    simp [Monitor.cycle, lossCycles, cyclesPerMs]
  · rw [State.monitor_mem_cycle hp (.inr (.inr rfl)), hm, Monitor.mem_expiries]
    simp [Monitor.cycle, lossCycles, returnCycles, cyclesPerMs]
  · rw [State.port_cycle, (s.port p).cycle_presence.1 n hn]
  · rw [State.stationAbsence_mem_cycle hp, (s.port p).cycle_presence.1 n hn, Presence.present.injEq]
    omega
  · rw [State.port_cycle, (s.port p).cycle_receive.1 bytes n hn]
  · rw [State.interByteTimeout_mem_cycle hp, (s.port p).cycle_receive.1 bytes n hn]
    simp
    omega
  · rw [State.port_cycle]
    exact ⟨rfl, rfl, rfl, (s.port p).cycle_presence.2, (s.port p).cycle_receive.2⟩
  · rw [State.mem_cycle_pending hp, Monitor.mem_expiries] at hc
    simp only [PortState.mem_expiries] at hc
    rcases hc with (⟨rfl, hm⟩ | ⟨r, hm, -, rfl⟩ | ⟨r, hm, -, -, rfl⟩) | ⟨p, ⟨rfl, bytes, hr⟩ | ⟨rfl, hr⟩⟩
    · left
      rcases hs : s.monitor with t | _ | m <;> rw [hs] at hm <;> simp [Monitor.cycle] at hm
      exact ⟨rfl, t, rfl⟩
    · right; left
      rcases hs : s.monitor with t | _ | m <;> rw [hs] at hm <;> simp [Monitor.cycle] at hm
      exact ⟨.inl rfl, m, rfl⟩
    · right; left
      rcases hs : s.monitor with t | _ | m <;> rw [hs] at hm <;> simp [Monitor.cycle] at hm
      exact ⟨.inr rfl, m, rfl⟩
    · obtain ⟨k, hk, -⟩ := (s.port p).cycle_running.2 bytes 0 hr
      exact .inr (.inr (.inr ⟨p, bytes, k, rfl, hk⟩))
    · obtain ⟨k, hk, -⟩ := (s.port p).cycle_running.1 0 hr
      exact .inr (.inr (.inl ⟨p, k, rfl, hk⟩))

/-! ### The loss of the clock -/

/-- CLOCK_LOSS_DECLARATION carries out what is due and stops the audio side (R4, R5). -/
theorem carriesOut_clockLoss : CarriesOut .clockLossDeclaration State.loseClock (fun s => s.clockLost = false) where
  audio := audioOp_loseClock
  deviation u p := by
    have hp : u.loseClock.prog p = { u.prog p with front := (u.prog p).front.discard } :=
      State.prog_mapProgs u (fun _ P => { P with front := P.front.discard }) p
    rw [hp]
  meets s hh hl := congrArg Host.Outcome.next (if_pos (by simp [hh, hl]))
  ready hm _ hl := by simpa [State.clockLost, hm] using hl

theorem State.clockLost_of_present {s : State} {n : Nat} (h : s.monitor = .present n) : s.clockLost = false := by
  simp [State.clockLost, h]

/-- Settles O10: the frame with nothing due, and the due events first otherwise. -/
theorem lossStopsTheAudioSide : Obligations.LossStopsTheAudioSide := by
  intro s n hh hm
  have hl := State.clockLost_of_present hm
  refine ⟨fun hd => ⟨_, carriesOut_clockLoss.meets s hh hl, ?_⟩, fun hn => ?_⟩
  · rw [State.carryOut_of_not_due hd]
    refine ⟨rfl, fun p => ?_, State.noticesFollow_quiet fun _ => rfl⟩
    exact State.prog_mapProgs s (fun _ P => { P with front := P.front.discard }) p
  · exact carriesOut_clockLoss.run_due s.dueEvents { s with pending := s.dueEvents ++ [.clockLossDeclaration] } rfl hh hl hn rfl

/-- The timers of the ports of `s` have more than `n` cycles to run. -/
def State.PortsRunBeyond (s : State) (n : Nat) : Prop :=
  ∀ p, (∀ k, (s.port p).presence = .present k → n < k) ∧ ∀ bytes k, (s.port p).receive = .receiving bytes k → n < k

theorem State.PortsRunBeyond.cycle {s : State} {n : Nat} (h : s.PortsRunBeyond (n + 1)) : s.cycle.PortsRunBeyond n := fun p => by
  rw [State.port_cycle]
  refine ⟨fun k hk => ?_, fun bytes k hk => ?_⟩
  · obtain ⟨j, hj, rfl⟩ := (s.port p).cycle_running.1 k hk
    have := (h p).1 j hj
    omega
  · obtain ⟨j, hj, rfl⟩ := (s.port p).cycle_running.2 bytes k hk
    have := (h p).2 bytes j hj
    omega

/-- While no timer of a port runs out, a cycle queues the declarations of the monitor alone. -/
theorem State.cycle_pending_of_ports {s : State} (hp : s.pending = []) {n : Nat} (h : s.PortsRunBeyond (n + 1)) :
    s.cycle.pending = s.monitor.cycle.expiries := by
  have hq : (allPorts.flatMap fun p => (s.port p).cycle.expiries p) = [] := by
    refine List.flatMap_eq_nil_iff.2 fun p _ => List.eq_nil_iff_forall_not_mem.2 fun c hc => ?_
    have hk := h.cycle p
    rw [State.port_cycle] at hk
    rcases PortState.mem_expiries.1 hc with ⟨-, bytes, hr⟩ | ⟨-, hr⟩
    · exact absurd (hk.2 bytes 0 hr) (Nat.not_lt_zero n)
    · exact absurd (hk.1 0 hr) (Nat.not_lt_zero n)
  rw [s.cycle_frame]
  simp only [hp, hq, List.nil_append, List.append_nil]

/-- `n + 1` idle cycles run the loss timer out and queue the declaration, and nothing else. -/
theorem run_lossTimer (n : Nat) : ∀ (s : State), s.pending = [] → s.held = false → s.dueEvents = [] →
    s.monitor = .present (n + 1) → s.PortsRunBeyond (n + 1) →
    ∃ t, run (n + 1) s = .next t ∧ t.pending = [.clockLossDeclaration] ∧ t.held = false ∧ t.monitor = .present 0 := by
  induction n with
  | zero =>
    intro s hp hh hd hm hr
    refine ⟨s.cycle, ?_, ?_, hh, ?_⟩
    · rw [run_one, step_nil hp, State.idle_of_not_due hh hd]
    · rw [State.cycle_pending_of_ports hp hr, hm]
      rfl
    · rw [s.cycle_frame, hm]
      rfl
  | succ n ih =>
    intro s hp hh hd hm hr
    have hc : s.cycle.monitor = .present (n + 1) := by
      rw [s.cycle_frame, hm]
      rfl
    have hdue : s.cycle.dueEvents = [] := by
      rw [← hd, State.dueEvents_eq rfl rfl rfl, State.dueEvents_eq (s := s) rfl rfl rfl]
      have ht : s.cycle.tickDue = s.tickDue := by
        simp only [State.tickDue, State.clockLost_of_present hc, State.clockLost_of_present hm]
        rfl
      rw [ht]
      rfl
    obtain ⟨t, ht⟩ := ih s.cycle (by rw [State.cycle_pending_of_ports hp hr, hm]; rfl) hh hdue hc hr.cycle
    exact ⟨t, by rw [run_succ (by rw [step_nil hp, State.idle_of_not_due hh hd]), ht.1], ht.2⟩

/-- Runs one after the other. -/
theorem run_add {j k : Nat} {s t : State} (h : run j s = .next t) : run (j + k) s = run k t := by
  induction j generalizing s with
  | zero =>
    obtain rfl := Host.Outcome.next.inj (show Host.Outcome.next s = .next t from h)
    rw [Nat.zero_add]
  | succ j ih =>
    cases hs : step s with
    | next u =>
      rw [run_succ hs] at h
      rw [Nat.succ_add, run_succ hs, ih h]
    | fault r => exact nomatch r
    | refused r =>
      have hr : run (j + 1) s = .refused r := hostRun_refused core hs
      simp [hr] at h

/-- Settles O4: the cycles that run the timer out, and the declaration. -/
theorem lossTimerLeadsToDeclaration : Obligations.LossTimerLeadsToDeclaration := by
  intro s n hp hh hd hm hr
  obtain ⟨u, hu, hup, huh, hum⟩ := run_lossTimer n s hp hh hd hm hr
  have hx := carriesOut_clockLoss.meets { u with pending := [] } huh (State.clockLost_of_present hum)
  have hq : ({ u with pending := [] } : State).carryOut.pending = [] := audioOp_carryOut.pending { u with pending := [] }
  generalize ({ u with pending := [] } : State).carryOut = v at hx hq
  refine ⟨_, (run_add (k := 1) hu).trans ((run_one u).trans ((step_cons hup).trans hx)), rfl, hq, rfl, ?_⟩
  exact (State.conditions_clockLost _).2 rfl

end Sys2Proof.Machine

/-! PROOFS. The frame: every programme's step, the output slots and the bypass branch (R1 to R3, R22 to R25, R107 to R112). -/

namespace Sys2Proof.Machine

/-! ### The limiter -/

/-- The largest reduction that the line needs, or the starting value. -/
theorem qmax_spec (c : Nat) (line : List Pair) : (∀ y ∈ line, reductionFor c y.magnitude ≤ qmax c line) ∧
    (qmax c line = 0 ∨ ∃ y ∈ line, reductionFor c y.magnitude = qmax c line) := by
  suffices h : ∀ a, a ≤ line.foldl (fun q x => max q (reductionFor c x.magnitude)) a ∧
      (∀ y ∈ line, reductionFor c y.magnitude ≤ line.foldl (fun q x => max q (reductionFor c x.magnitude)) a) ∧
      (line.foldl (fun q x => max q (reductionFor c x.magnitude)) a = a ∨
        ∃ y ∈ line, reductionFor c y.magnitude = line.foldl (fun q x => max q (reductionFor c x.magnitude)) a) from
    ⟨(h 0).2.1, (h 0).2.2⟩
  induction line with
  | nil => simp
  | cons x xs ih =>
    intro a
    obtain ⟨h1, h2, h3⟩ := ih (max a (reductionFor c x.magnitude))
    rw [List.foldl_cons]
    refine ⟨(le_max_left _ _).trans h1, fun y hy => ?_, ?_⟩
    · rcases List.mem_cons.1 hy with rfl | hy
      · exact (le_max_right _ _).trans h1
      · exact h2 y hy
    · rcases h3 with h3 | ⟨y, hy, h3⟩
      · rcases max_choice a (reductionFor c x.magnitude) with hm | hm
        · exact .inl (h3.trans hm)
        · exact .inr ⟨x, List.mem_cons_self, (h3.trans hm).symm⟩
      · exact .inr ⟨y, List.mem_cons_of_mem _ hy, h3⟩

/-! ### The frame step -/

/-- A frame step with a full pipeline, stage by stage (R107). -/
theorem OutputStage.frameStep_eq {o : OutputStage} (h : o.pipeline.length = 2) (f : Profile) (x : Pair) :
    let c := ceilingValue f.ceiling
    let d := o.newReduction c f.release
    let head := o.pipeline.headD .zero
    o.frameStep f x =
      { stage := { o with
          applied := o.advanceRamp.applied
          ramp := o.advanceRamp.ramp
          line := o.line.tail ++ [x.scale o.advanceRamp.applied]
          pipeline := o.pipeline.tail ++ [(o.line.headD .zero).scale (reducingFactor d)]
          reduction := d
          peak := max o.peak d
          clips := if head.clampTo c ≠ head then satSucc 65535 o.clips else o.clips }
        emitted := head.clampTo c
        clipped := head.clampTo c ≠ head } := by
  obtain ⟨a, b, hab⟩ := List.length_eq_two.1 h
  have ha := o.advanceRamp_frame
  simp only [OutputStage.frameStep, hab, List.cons_append, List.nil_append, List.headD_cons, List.tail_cons]
  rw [ha]

/-- A programme in OFF sends what leaves its bypass branch (R3, R11). -/
theorem Programme.frame_off {P : Programme} (h : P.mode = .off) (x : Pair) :
    P.frame x = ({ P with out := P.out.pushBypass x }, P.out.bypass.headD .zero, false) := if_pos h

theorem Programme.frame_on {P : Programme} (h : P.mode ≠ .off) (x : Pair) : P.frame x =
    ({ P with front := P.front.addFrame x, out := (P.out.frameStep P.profile x).stage.pushBypass x },
      (P.out.frameStep P.profile x).emitted, (P.out.frameStep P.profile x).clipped) := if_neg h

/-- What a programme clamps at a frame is known before it (R112). -/
theorem Programme.frame_clipped {P : Programme} (h : P.out.pipeline.length = 2) (x : Pair) : (P.frame x).2.2 = P.willClip := by
  by_cases hm : P.mode = .off
  · rw [Programme.frame_off hm]
    simp [Programme.willClip, hm]
  · rw [Programme.frame_on hm, OutputStage.frameStep_eq h]
    simp [Programme.willClip, hm]

/-- What a programme in MEASURE or ACTIVE sends (R112). -/
theorem Programme.frame_sent {P : Programme} (h : P.out.pipeline.length = 2) (hm : P.mode ≠ .off) (x : Pair) :
    (P.frame x).2.1 = (P.out.pipeline.headD .zero).clampTo (ceilingValue P.profile.ceiling) := by
  rw [Programme.frame_on hm, OutputStage.frameStep_eq h]

/-- The output stage of a programme in MEASURE or ACTIVE after a frame (R107 to R115). -/
theorem Programme.frame_out {P : Programme} (h : P.out.pipeline.length = 2) (hm : P.mode ≠ .off) (x : Pair) :
    let c := ceilingValue P.profile.ceiling
    let d := max (48 * qmax c P.out.line) (P.out.reduction - P.profile.release.toNat)
    (P.frame x).1.out =
      { P.out with
        applied := P.out.advanceRamp.applied
        ramp := P.out.advanceRamp.ramp
        line := P.out.line.tail ++ [x.scale P.out.advanceRamp.applied]
        pipeline := P.out.pipeline.tail ++ [(P.out.line.headD .zero).scale (reducingFactor d)]
        bypass := P.out.bypass.tail ++ [x]
        reduction := d
        peak := max P.out.peak d
        clips := if P.willClip then min 65535 (P.out.clips + 1) else P.out.clips } := by
  rw [Programme.frame_on hm, OutputStage.frameStep_eq h]
  simp [OutputStage.pushBypass, OutputStage.newReduction, Programme.willClip, hm, satSucc]

/-- A frame touches the front end and the output stage alone. -/
theorem Programme.frame_keeps (P : Programme) (x : Pair) :
    (P.frame x).1 = { P with front := (P.frame x).1.front, out := (P.frame x).1.out } := by
  simp only [Programme.frame]
  split <;> rfl

/-- The front end of a programme in MEASURE or ACTIVE after a frame (R22 to R25). -/
theorem Programme.frame_front {P : Programme} (hm : P.mode ≠ .off) (x : Pair) : let f := (P.frame x).1.front
    P.front.filterL.Takes x.l f.filterL ∧ P.front.filterR.Takes x.r f.filterR ∧
    f = { P.front with
      filterL := f.filterL, filterR := f.filterR
      sumL := P.front.sumL + f.filterL.highPass.y1.natAbs ^ 2
      sumR := P.front.sumR + f.filterR.highPass.y1.natAbs ^ 2
      frameCount := P.front.frameCount + 1 } := by
  rw [Programme.frame_on hm]
  exact ⟨ChannelFilter.push_takes _ _, ChannelFilter.push_takes _ _, rfl⟩

theorem State.prog_takeFrame (s : State) (slots : Vector TdmWord 16) (p : Prog) :
    (s.takeFrame slots).prog p = ((s.prog p).frame (inputPair slots p)).1 := (s.takeFrame_frame slots).2.1 p

theorem State.monitor_takeFrame (s : State) (slots : Vector TdmWord 16) : (s.takeFrame slots).monitor = s.monitor := by
  rw [(s.takeFrame_frame slots).1]

theorem State.tdmOut_takeFrame (s : State) (slots : Vector TdmWord 16) :
    (s.takeFrame slots).tdmOut = some (outputSlots fun p => ((s.prog p).frame (inputPair slots p)).2.1) := by
  rw [(s.takeFrame_frame slots).1]

/-! ### The command -/

/-- INPUT_FRAME carries out what is due and takes the frame (R1). -/
theorem carriesOut_inputFrame (slots : Vector TdmWord 16) :
    CarriesOut (.inputFrame slots) (State.takeFrame · slots) (fun s => s.takesFrame = true) where
  audio := audioOp_takeFrame slots
  deviation u p := by
    rw [State.prog_takeFrame, Programme.frame_keeps]
  meets s hh ht := congrArg Host.Outcome.next (if_pos (by simp [hh, ht]))
  ready hm hf ht := by simpa [State.takesFrame, State.clockLost, hm, hf] using ht

theorem State.takesFrame_iff (s : State) : s.takesFrame = true ↔ (∃ n, s.monitor = .present n) ∧ s.frameOpen = true := by
  cases hm : s.monitor <;> simp [State.takesFrame, State.clockLost, hm]

/-- Settles O12: the filter's bounds, the frames that are not taken, the due events first, and the stages of each programme. -/
theorem framePassesThrough : Obligations.FramePassesThrough := by
  refine ⟨⟨Config.weighting.stable.1, Config.weighting.stable.2, Config.weighting.normalised, Config.weighting.near⟩,
    fun s slots hh => ⟨s.takesFrame_iff, fun ht => ?_, fun ht hn => ?_, fun ht hd hl => ?_⟩⟩
  · exact congrArg Host.Outcome.next (if_neg (by simp [ht]))
  · exact (carriesOut_inputFrame slots).run_due s.dueEvents { s with pending := s.dueEvents ++ [.inputFrame slots] } rfl hh ht hn rfl
  · have hslots := outputSlots_pair fun p => ((s.prog p).frame (inputPair slots p)).2.1
    refine ⟨_, outputSlots fun p => ((s.prog p).frame (inputPair slots p)).2.1, (carriesOut_inputFrame slots).meets s hh ht, ?_,
      fun p => ⟨fun hm => ?_, fun hm => ?_⟩, ?_⟩
    all_goals rw [State.carryOut_of_not_due hd]
    · rw [(s.takeFrame_frame slots).1]
      rfl
    · rw [State.prog_followFrom, State.prog_takeFrame, (hslots p).1, (hslots p).2, Programme.frame_off hm]
      exact ⟨rfl, rfl, rfl⟩
    · rw [State.prog_followFrom, State.prog_takeFrame, (hslots p).1, (hslots p).2, Programme.frame_sent (hl p) hm]
      exact ⟨Programme.frame_keeps _ _, Programme.frame_front hm _,
        ⟨qmax _ _, (qmax_spec _ _).1, (qmax_spec _ _).2, Programme.frame_out (hl p) hm _⟩, rfl, rfl⟩
    · refine State.noticesFollow_followFrom fun q => ?_
      rw [(s.fires_takeFrame slots).notice]
      simp only [Programme.frame_clipped (hl _)]

/-! ### The bypass branch (R2, R3) -/

/-- A slot keeps the upper 24 bits of the slot it was read from (R1, R2). -/
theorem slotOf_sampleOf (w : TdmWord) : slotOf (sampleOf w) = w &&& 0xFFFFFF00 := by
  have hmask : ∀ i : Fin 32, (0xFFFFFF00 : BitVec 32).getLsbD i = decide (8 ≤ i.val) := by decide
  rw [slotOf, sampleOf, BitVec.ofInt_toInt]
  apply BitVec.eq_of_getLsbD_eq
  intro i hi
  rw [BitVec.getLsbD_and, hmask ⟨i, hi⟩]
  refine (BitVec.getLsbD_append (x := BitVec.extractLsb' 8 24 w) (y := (0 : BitVec 8)) (i := i)).trans ?_
  by_cases h : i < 8
  · simp [h]
  · simp [h, show i - 8 < 24 by omega, show 8 + (i - 8) = i by omega, show 8 ≤ i by omega]

theorem State.monitor_carryOut (s : State) : s.carryOut.monitor = s.monitor := by
  have htick : ∀ u : State, u.tick.monitor = u.monitor := fun u => by
    cases h : u.tickDue with
    | false => rw [State.tick_of_not_due h]
    | true => rw [State.tick_frame h]
  have hcompletes : ∀ (l : List Prog) (u : State), (l.foldl State.complete u).monitor = u.monitor := fun l => by
    induction l with
    | nil => exact fun _ => rfl
    | cons p ps ih => exact fun u => (ih _).trans (by rw [u.complete_frame p])
  rw [State.carryOut_eq, htick, State.completeAll, hcompletes]
  rfl

/-- A programme in OFF between two states a frame `x` apart: it sends the oldest pair of its bypass branch and takes the new one. -/
structure State.Bypasses (s t : State) (p : Prog) (x : Vector TdmWord 16) : Prop where
  held : t.held = false
  monitor : ∃ m, t.monitor = .present m
  mode : (t.prog p).mode = .off
  bypass : (t.prog p).out.bypass = (s.prog p).out.bypass.tail ++ [inputPair x p]
  sends : ∃ out, t.tdmOut = some out ∧ out[2 * p.val] = slotOf ((s.prog p).out.bypass.headD .zero).l ∧
    out[2 * p.val + 1] = slotOf ((s.prog p).out.bypass.headD .zero).r

/-- The frame of a programme in OFF whose bypass branch is that of `s`. -/
theorem State.bypasses_takeFrame {s v w : State} {p : Prog} {n : Nat} (x : Vector TdmWord 16) (hh : v.held = false)
    (hm : v.monitor = .present n) (ho : (v.prog p).mode = .off) (hb : (v.prog p).out.bypass = (s.prog p).out.bypass) :
    s.Bypasses ((v.takeFrame x).followFrom w) p x := by
  have hslots := outputSlots_pair (fun p => ((v.prog p).frame (inputPair x p)).2.1) p
  have hprog : ((v.takeFrame x).followFrom w).prog p = { v.prog p with out := (v.prog p).out.pushBypass (inputPair x p) } := by
    rw [State.prog_followFrom, State.prog_takeFrame, Programme.frame_off ho]
  refine ⟨?_, ⟨n, ?_⟩, ?_, ?_, outputSlots fun p => ((v.prog p).frame (inputPair x p)).2.1, ?_, ?_, ?_⟩
  · rw [State.followFrom_held, (audioOp_takeFrame x).held, hh]
  · rw [State.followFrom_monitor, State.monitor_takeFrame, hm]
  · rw [hprog]
    exact ho
  · rw [hprog, ← hb]
    rfl
  · rw [State.followFrom_tdmOut, State.tdmOut_takeFrame]
  · rw [hslots.1, Programme.frame_off ho, hb]
  · rw [hslots.2, Programme.frame_off ho, hb]

/-- A frame with its sync; what the frame before left due changes nothing of a bypass branch. -/
theorem run_bypassFrame {s : State} {p : Prog} {x : Vector TdmWord 16} {rest : List Instr} {n : Nat} (hh : s.held = false)
    (hm : s.monitor = .present n) (ho : (s.prog p).mode = .off) (hp : s.pending = .frameSync :: .inputFrame x :: rest) :
    ∃ t, run 2 s = .next t ∧ t.pending = rest ∧ s.Bypasses t p x := by
  have hsync : step s = .next { s with monitor := .present lossCycles, frameOpen := true, pending := .inputFrame x :: rest } := by
    rw [step_cons hp, exec_frameSync (s := { s with pending := .inputFrame x :: rest }) hh]
    simp only [hm]
  obtain ⟨u, hu⟩ : ∃ u : State, u = { s with monitor := .present lossCycles, frameOpen := true, pending := rest } := ⟨_, rfl⟩
  have huh : u.held = false := by rw [hu, hh]
  have hum : u.monitor = .present lossCycles := by rw [hu]
  have hk : (s.prog p).Steady (u.carryOut.prog p) := by
    have hprog : u.prog p = s.prog p := by rw [hu]; rfl
    rw [← hprog]
    exact u.steady_carryOut p
  have hframe := (carriesOut_inputFrame x).meets u huh (u.takesFrame_iff.2 ⟨⟨_, hum⟩, by rw [hu]⟩)
  refine ⟨(u.carryOut.takeFrame x).followFrom u, ?_, ?_, State.bypasses_takeFrame x ((audioOp_carryOut.held u).trans huh)
    ((State.monitor_carryOut u).trans hum) (hk.mode.trans ho) hk.bypass⟩
  · rw [run_succ hsync, run_one, step_cons rfl, ← hframe, hu]
  · rw [State.followFrom_pending, (audioOp_takeFrame x).pending, audioOp_carryOut.pending, hu]

/-- Frames with their syncs push their pairs through the bypass branch of a programme in OFF. -/
theorem run_bypassFrames {p : Prog} : ∀ (fs : List (Vector TdmWord 16)) (s : State) (rest : List Instr) (n : Nat),
    s.held = false → s.monitor = .present n → (s.prog p).mode = .off → (s.prog p).out.bypass ≠ [] →
    s.pending = fs.flatMap (fun x => [.frameSync, .inputFrame x]) ++ rest →
    ∃ t m, run (2 * fs.length) s = .next t ∧ t.held = false ∧ t.monitor = .present m ∧ (t.prog p).mode = .off ∧
      t.pending = rest ∧
      (t.prog p).out.bypass = ((s.prog p).out.bypass ++ fs.map fun x => inputPair x p).drop fs.length
  | [], s, _, n, hh, hm, ho, _, hp => ⟨s, n, rfl, hh, hm, ho, hp, by simp⟩
  | x :: xs, s, rest, n, hh, hm, ho, hb, hp => by
    obtain ⟨u, hu, hup, huh, ⟨m, hum⟩, huo, hub, -⟩ := run_bypassFrame hh hm ho hp
    obtain ⟨t, k, ht, hth, htm, hto, htp, htb⟩ := run_bypassFrames xs u rest m huh hum huo (by simp [hub]) hup
    refine ⟨t, k, ?_, hth, htm, hto, htp, ?_⟩
    · rw [List.length_cons, Nat.mul_succ, Nat.add_comm, run_add hu, ht]
    · obtain ⟨a, l, hal⟩ := List.exists_cons_of_ne_nil hb
      rw [htb, hub, hal]
      simp

/-- Settles O14: fifty frames fill the branch, and the next one sends the first of them. -/
theorem bypassDelaysFiftyFrames : Obligations.BypassDelaysFiftyFrames := by
  intro s p f fs n hh hm ho hb hl hp
  obtain ⟨init, last, hfs⟩ : ∃ init last, fs = init ++ [last] :=
    ⟨_, _, (List.dropLast_append_getLast (List.ne_nil_of_length_eq_add_one hl)).symm⟩
  have hinit : (f :: init).length = 50 := by simpa [hfs] using hl
  rw [hfs, ← List.cons_append, List.flatMap_append] at hp
  obtain ⟨u, m, hu, huh, hum, huo, hup, hub⟩ :=
    run_bypassFrames (f :: init) s _ n hh hm ho (List.ne_nil_of_length_eq_add_one hb) hp
  obtain ⟨t, ht, htp, -, -, -, -, out, hto, hl0, hl1⟩ := run_bypassFrame huh hum huo hup
  rw [hinit, ← hb, List.drop_left] at hub
  rw [hub] at hl0 hl1
  refine ⟨t, out, ?_, hto, htp, hl0.trans (slotOf_sampleOf _), hl1.trans (slotOf_sampleOf _)⟩
  rw [hinit] at hu
  rw [run_add (j := 2 * 50) (k := 2) hu, ht]

end Sys2Proof.Machine

/-! PROOFS. The requests that act on one programme: modes, pause, counter, segment and reset (R10 to R19, R69, R139). -/

namespace Sys2Proof.Machine

/-! ### A request whose effect is an operation of the audio side -/

/-- A request of the form that needs the claim on the programme of its TARGET reaches its effect (R163). -/
theorem programmeRequest_ready {s : State} {port : Port} {p : Prog} {target : Byte} {n : Nat} {d : List Byte} {k : Prog → Reply}
    (h : s.ReadyHolder port (progRecord p)) (ht : target.toNat = p.val) (hd : d.length = n) :
    (needFull port (s.hear port) <| needSize n d (s.hear port) <| needBelow 8 target (s.hear port) fun p =>
      needClaim port (progRecord p) (s.hear port) (k p)) = k p := by
  rw [needFull_full (by rw [State.access_hear]; exact h.1.2), needSize_eq hd, needBelow_eq ht,
    needClaim_held (by rw [State.holder_hear]; exact h.2)]

/-- What a request leaves whose effect is the operation `g` of the audio side. -/
theorem State.takeMessage_fires {s : State} {port : Port} (code target : Byte) {payload : List Byte} {serve : Serve}
    {g : State → State} {r : Result} {bytes : List Byte} {fired : SourceSet} (h : s.Ready port) (hp : payload.length ≤ 48)
    (hs : serve port target payload (s.hear port) = { state := g (s.hear port), result := r, payload := bytes })
    (hg : s.Fires g fired) :
    ∃ t, s.takeMessage port code target payload serve = t ∧ s.Answers t port code target r bytes fired ∧
      t = { g s with ports := t.ports, notices := t.notices } := by
  have hw : g (s.hear port) = (g s).within ((s.hear port).fireSet fired) := hg (s.hear port)
  rw [hw] at hs
  obtain ⟨t, ht, ha, he, -⟩ := State.takeMessage_answers code target fired h hp hs rfl
    fun q => (s.hear port).notice_fireSet fired q
  refine ⟨t, ht, ha, he.trans ?_⟩
  rw [hg.frame]
  rfl

/-! ### Pause, counter and segment (R16, R69, R139) -/

/-- Settles O42: each of the four rewrites the programme of its TARGET. -/
theorem plainProgrammeRequests : Obligations.PlainProgrammeRequests := by
  intro s port target p h ht
  have does : ∀ {d : List Byte} {c : Instr} {code : Byte} {serve : Serve} (f : Programme → Programme), d.length ≤ 48 →
      exec c s = .next (s.takeMessage port code target d serve) →
      serve port target d (s.hear port) = done ((s.hear port).onProg p f) →
      ∃ t, exec c s = .next t ∧ s.Answers t port code target .ok [] 0 ∧
        t = { s with ports := t.ports, notices := t.notices, progs := t.progs } ∧ (∀ q, q ≠ p → t.prog q = s.prog q) ∧
        t.prog p = f (s.prog p) := fun f hd hc hs => by
    obtain ⟨t, ht, hrest⟩ := State.takeMessage_onProg _ target f h.1.1 hd hs
    exact ⟨t, ht ▸ hc, hrest⟩
  exact ⟨does (fun P => { P with requestPause := true }) (by decide) rfl (programmeRequest_ready h ht rfl),
    does (fun P => { P with requestPause := false }) (by decide) rfl (programmeRequest_ready h ht rfl),
    fun b0 b1 b2 b3 => does (fun P => { P with front := { P.front with counter := b3 ++ b2 ++ b1 ++ b0 } })
      (by simp) rfl (programmeRequest_ready h ht rfl),
    does Programme.restartSegment (by decide) rfl (programmeRequest_ready h ht rfl)⟩

/-! ### Gains -/

theorem factor_zero : factor 0 = 4194304 := by decide +kernel

/-- A move of the gain outside OFF, field by field (R85, R104). -/
theorem Programme.moveGain_on {P : Programme} (h : P.mode ≠ .off) (g : Int) : P.moveGain g = { P with
    gcur := g
    out := if g = P.gcur then P.out else { P.out with ramp := some { start := P.out.applied, fin := factor g, left := 480 } } } := by
  rw [P.moveGain_frame g, P.moveGain_gcur g, P.moveGain_out g]
  simp only [h, or_false, eq_comm (a := P.gcur), OutputStage.startRamp]

/-! ### SET_MODE (R10 to R14) -/

theorem serveSetMode_ready {s : State} {port : Port} {target b : Byte} {p : Prog} {m : Mode}
    (h : s.ReadyHolder port (progRecord p)) (ht : target.toNat = p.val) (hb : modeOf b = some m) :
    serveSetMode port target [b] (s.hear port) = done ((s.hear port).changeMode p m) := by
  rw [serveSetMode, needFull_full (by rw [State.access_hear]; exact h.1.2), needSize_eq (n := 1) rfl, needBelow_eq ht,
    byteAt_cons_zero, needValue_some hb, needClaim_held (by rw [State.holder_hear]; exact h.2)]

/-- What SET_MODE leaves where the change of mode is `k` and clears the settled flag. -/
theorem State.setMode_answers {s : State} {port : Port} {target b : Byte} {p : Prog} {m : Mode} {k : State → State}
    (h : s.ReadyHolder port (progRecord p)) (ht : target.toNat = p.val) (hb : modeOf b = some m)
    (hk : ∀ o, k (s.within o) = (k s).within o) (hf : k s = { s with progs := (k s).progs })
    (he : ∀ o, (s.within o).changeMode p m = (k (s.within o)).fireSettled (s.within o) p)
    (hset : ((k s).prog p).settled = false) :
    ∃ t, exec (.setMode port target [b]) s = .next t ∧
      s.Answers t port 0x20 target .ok [] (Source.settledChange.bitIf (s.prog p).settled) ∧
      t = { s with ports := t.ports, notices := t.notices, progs := t.progs } ∧ ∀ q, t.prog q = (k s).prog q := by
  have hfires : s.Fires (State.changeMode · p m) (Source.settledChange.bitIf (s.prog p).settled) := by
    have := (State.fires_fireSettled (.quiet hk) p).of_eq (g := (State.changeMode · p m)) he
    rwa [hset, Bool.false_bne] at this
  obtain ⟨t, hx, ha, hte⟩ := State.takeMessage_fires 0x20 target h.1.1 (by simp) (serveSetMode_ready h ht hb) hfires
  have hprogs : (s.changeMode p m).progs = (k s).progs := by
    rw [show s.changeMode p m = (k s).fireSettled s p from he s, State.fireSettled, State.fireIf_progs]
  refine ⟨t, congrArg Host.Outcome.next hx, ha, ?_, fun q => ?_⟩
  · rw [hte, show s.changeMode p m = (k s).fireSettled s p from he s, State.fireSettled, State.fireIf_eq_fireSet, hf]
    rfl
  · rw [hte]
    exact congrArg (fun v : Vector Programme 8 => v[q]) hprogs

/-- SET_MODE on one programme alone. -/
theorem State.setMode_onProg {s : State} {port : Port} {target b : Byte} {p : Prog} {m : Mode} {f : Programme → Programme}
    (h : s.ReadyHolder port (progRecord p)) (ht : target.toNat = p.val) (hb : modeOf b = some m)
    (he : ∀ o, (s.within o).changeMode p m = ((s.within o).onProg p f).fireSettled (s.within o) p)
    (hset : (f (s.prog p)).settled = false) :
    ∃ t, exec (.setMode port target [b]) s = .next t ∧
      s.Answers t port 0x20 target .ok [] (Source.settledChange.bitIf (s.prog p).settled) ∧
      t = { s with ports := t.ports, notices := t.notices, progs := t.progs } ∧ (∀ q, q ≠ p → t.prog q = s.prog q) ∧
      t.prog p = f (s.prog p) := by
  obtain ⟨t, hx, ha, hte, hp⟩ := State.setMode_answers (k := (State.onProg · p f)) h ht hb (fun _ => rfl) rfl he (by simpa using hset)
  exact ⟨t, hx, ha, hte, fun q hq => by simp [hp, hq], by simp [hp]⟩

/-- A programme leaves OFF (R12). -/
theorem Programme.leaveOff_eq (lost : Bool) (m : Mode) (P : Programme) : P.leaveOff lost m = { P with
    mode := m, gcur := 0, settleCount := 0, settled := false
    front := { P.front with sumL := 0, sumR := 0, frameCount := 0 }
    out := if lost then { P.out with applied := 4194304, ramp := none }
           else { P.out with applied := 4194304, ramp := none, line := List.replicate 48 .zero,
                             pipeline := List.replicate 2 .zero, reduction := 0 } } := by
  simp only [Programme.leaveOff, OutputStage.startAfresh, OutputStage.setFactor, factor_zero]
  cases lost <;> rfl

/-- ACTIVE to MEASURE (R14). -/
theorem Programme.toMeasure_eq {P : Programme} (h : P.mode = .active) : P.toMeasure = { P with
    mode := .measure, gcur := 0, settleCount := 0, settled := false
    out := if P.gcur = 0 then P.out
           else { P.out with ramp := some { start := P.out.applied, fin := 4194304, left := 480 } } } := by
  simp only [Programme.toMeasure, Programme.unsettle, Programme.moveGain_on (P := P) (by simp [h]) 0, factor_zero,
    eq_comm (a := (0 : Int))]

/-- Settles O38, by the present mode and the mode asked for. -/
theorem modeChangesToOffAndMeasure : Obligations.ModeChangesToOffAndMeasure := by
  intro s port target p h ht
  refine ⟨?_, fun hm => ?_, fun hm => ?_, fun hm => ?_⟩
  · have hserve := serveSetMode_ready h ht (modeOf_code (s.prog p).mode)
    rw [State.changeMode_same (congrArg Programme.mode (s.prog_hear port p))] at hserve
    obtain ⟨t, hx, hr, -⟩ := State.takeMessage_refuses 0x20 target h.1.1 (by simp) hserve
    exact ⟨t, congrArg Host.Outcome.next hx, hr⟩
  · exact State.setMode_onProg (f := Programme.enterOff) h ht rfl (fun o => State.changeMode_off (s := s.within o) hm) rfl
  · obtain ⟨t, hx, ha, hte, hq, hp⟩ := State.setMode_onProg (m := .measure) (f := Programme.leaveOff s.clockLost .measure) (b := 1)
      h ht rfl (fun o => State.changeMode_off_measure (s := s.within o) hm) rfl
    exact ⟨t, hx, ha, hte, hq, hp.trans (Programme.leaveOff_eq _ _ _)⟩
  · obtain ⟨t, hx, ha, hte, hq, hp⟩ := State.setMode_onProg (m := .measure) (f := Programme.toMeasure) (b := 1)
      h ht rfl (fun o => State.changeMode_active_measure (s := s.within o) hm) rfl
    exact ⟨t, hx, ha, hte, hq, hp.trans (Programme.toMeasure_eq hm)⟩

end Sys2Proof.Machine

/-! PROOFS. A programme that joins its group with the gain 0: SET_MODE to ACTIVE, and RESET_PROGRAMME (R13, R18, R19, R89). -/

namespace Sys2Proof.Machine

/-! ### The joining value of a newcomer (R89) -/

/-- `u` is `s` with programme `p` made an ACTIVE newcomer of its group: its slot in service stands, its gain is 0. -/
structure State.Newcomer (s u : State) (p : Prog) : Prop where
  links : u.links = s.links
  others : ∀ q, q ≠ p → u.prog q = s.prog q
  mode : (u.prog p).mode = .active
  gcur : (u.prog p).gcur = 0
  profile : (u.prog p).profile = (s.prog p).profile

namespace State.Newcomer
variable {s u : State} {p : Prog}

theorem mem_self (h : s.Newcomer u p) : p ∈ u.activeGroup p := by
  rw [State.mem_activeGroup]
  exact ⟨u.sameGroup_refl p, h.mode⟩

theorem mem_other (h : s.Newcomer u p) {q : Prog} (hq : q ≠ p) :
    q ∈ u.activeGroup p ↔ s.sameGroup p q = true ∧ (s.prog q).mode = .active := by
  rw [State.mem_activeGroup, State.sameGroup_congr h.links, h.others q hq]

theorem inRange (h : s.Newcomer u p) (hg : s.GainsSound) (q : Prog) : (u.prog q).profile.InRange := by
  have hs : (s.prog q).profile.InRange := (hg.1 q).1 _
  by_cases hq : q = p
  · subst hq
    rw [h.profile]
    exact hs
  · rw [h.others q hq]
    exact hs

/-- The ends of the intersection against the newcomer's own bounds and the gain of any other member. -/
theorem bounds (h : s.Newcomer u p) (hg : s.GainsSound) : u.groupMin p ≤ 0 ∧ 0 ≤ u.groupMax p ∧
    (s.prog p).profile.gainMin ≤ u.groupMin p ∧
    (u.groupMin p = (s.prog p).profile.gainMin ∨
      ∃ q, q ≠ p ∧ q ∈ u.activeGroup p ∧ u.groupMin p ≤ (s.prog q).gcur) := by
  have hz := u.zero_in_group p fun q => by
    obtain ⟨-, -, -, -, -, h1, h2, -⟩ := h.inRange hg q
    exact ⟨h1, h2⟩
  have hmin := State.groupMin_ge h.mem_self
  rw [h.profile] at hmin
  obtain ⟨q, hq, he⟩ := State.groupMin_eq h.mem_self fun q => by
    obtain ⟨-, -, -, -, h1, -⟩ := h.inRange hg q
    exact h1
  refine ⟨hz.1, hz.2, hmin, ?_⟩
  by_cases hqp : q = p
  · left
    rw [he, hqp, h.profile]
  · right
    refine ⟨q, hqp, hq, ?_⟩
    rw [he, h.others q hqp]
    exact (hg.1 q).2.1

/-- The group joined by a newcomer takes the gain `v`: 0 where it is alone, and beside another ACTIVE member the lower of 0 and the gain
of that member, not below the newcomer's gain_min. -/
theorem joins (h : s.Newcomer u p) (hg : s.GainsSound) : ∃ v, u.joinGroup p = u.moveGroup p v ∧
    ((∀ q, q ≠ p → s.sameGroup p q = true → (s.prog q).mode ≠ .active) → v = 0) ∧
    ∀ q, q ≠ p → s.sameGroup p q = true → (s.prog q).mode = .active →
      v = max (s.prog p).profile.gainMin (min 0 (s.prog q).gcur) := by
  obtain ⟨low, hlow, hle, hj⟩ := State.joinGroup_some h.mem_self
  obtain ⟨hmin0, hmax0, hown, hfrom⟩ := h.bounds hg
  refine ⟨_, hj, fun halone => ?_, fun q hq hsame hact => ?_⟩
  · have hself : low = p := by
      by_contra hne
      obtain ⟨h1, h2⟩ := (h.mem_other hne).1 hlow
      exact halone low hne h1 h2
    rw [hself, h.gcur]
    exact limit_eq hmin0 hmax0
  · have hgain : ∀ r, r ≠ p → r ∈ u.activeGroup p → (s.prog r).gcur = (s.prog q).gcur := fun r hr hmem => by
      obtain ⟨h1, h2⟩ := (h.mem_other hr).1 hmem
      exact hg.2 r q h2 hact (s.sameGroup_trans (by rwa [s.sameGroup_comm]) hsame)
    have hq' := hle q ((h.mem_other hq).2 ⟨hsame, hact⟩)
    have hp' := hle p h.mem_self
    rw [h.others q hq] at hq'
    rw [h.gcur] at hp'
    have hlowest : (u.prog low).gcur = min 0 (s.prog q).gcur := by
      by_cases hlp : low = p
      · rw [hlp, h.gcur] at hq' ⊢
        omega
      · rw [h.others low hlp, hgain low hlp hlow] at hp' ⊢
        omega
    rw [hlowest]
    rcases hfrom with he | ⟨r, hr, hmem, hb⟩
    · simp only [State.intoGroup, limit]
      omega
    · rw [hgain r hr hmem] at hb
      simp only [State.intoGroup, limit]
      have hpm := (hg.1 p).2
      omega

end State.Newcomer

/-- What a join leaves of the programmes of `s` in `t`, where the newcomer is `p`: alone it has the gain 0; beside another ACTIVE member
every member takes the joining value and starts its ramp; the other programmes stand (R89, R104). -/
structure State.Joined (s : State) (p : Prog) (t : State) : Prop where
  alone : (∀ q, q ≠ p → s.sameGroup p q = true → (s.prog q).mode ≠ .active) → (t.prog p).gcur = 0
  member : ∀ q, q ≠ p → s.sameGroup p q = true → (s.prog q).mode = .active →
    (t.prog q).gcur = max (s.prog p).profile.gainMin (min 0 (s.prog q).gcur) ∧ (t.prog p).gcur = (t.prog q).gcur ∧
    t.prog q = { s.prog q with
      gcur := (t.prog q).gcur
      out := if (t.prog q).gcur = (s.prog q).gcur then (s.prog q).out
             else { (s.prog q).out with
               ramp := some { start := (s.prog q).out.applied, fin := factor (t.prog q).gcur, left := 480 } } }
  other : ∀ q, q ≠ p → s.sameGroup p q = false ∨ (s.prog q).mode ≠ .active → t.prog q = s.prog q

/-- A newcomer's group takes the joining value `v`. -/
theorem State.Newcomer.joined {s u : State} {p : Prog} (h : s.Newcomer u p) (hg : s.GainsSound) : ∃ v,
    (u.joinGroup p).prog p = (u.prog p).moveGain v ∧
    ∀ t : State, (t.prog p).gcur = v → (∀ q, q ≠ p → t.prog q = (u.joinGroup p).prog q) → s.Joined p t := by
  obtain ⟨v, hj, halone, hmember⟩ := h.joins hg
  refine ⟨v, by rw [hj, State.prog_moveGroup, if_pos h.mem_self], fun t hv ht =>
    ⟨fun hq => hv.trans (halone hq), fun q hq hs ha => ?_, fun q hq hn => ?_⟩⟩
  · rw [ht q hq, hj, State.prog_moveGroup, if_pos ((h.mem_other hq).2 ⟨hs, ha⟩), h.others q hq, hv, Programme.moveGain_gcur]
    exact ⟨hmember q hq hs ha, rfl, Programme.moveGain_on (by simp [ha]) v⟩
  · rw [ht q hq, hj, State.prog_moveGroup, if_neg fun hm => ?_, h.others q hq]
    obtain ⟨hs, ha⟩ := (h.mem_other hq).1 hm
    rcases hn with hn | hn
    · simp [hs] at hn
    · exact hn ha

/-! ### SET_MODE to ACTIVE -/

/-- OFF to ACTIVE, before the settled flag is compared (R12, R13). -/
def State.activateFromOff (lost : Bool) (p : Prog) (s : State) : State :=
  ((s.onProg p (Programme.leaveOff lost .active)).joinGroup p).onProg p Programme.settleFactor

/-- MEASURE to ACTIVE, before the settled flag is compared (R13). -/
def State.activateFromMeasure (p : Prog) (s : State) : State := (s.onProg p Programme.toActive).joinGroup p

/-- A newcomer made by rewriting its own programme. -/
theorem State.newcomer_onProg (s : State) (p : Prog) {f : Programme → Programme} (hm : (f (s.prog p)).mode = .active)
    (hg : (f (s.prog p)).gcur = 0) (hf : (f (s.prog p)).profile = (s.prog p).profile) : s.Newcomer (s.onProg p f) p := by
  have hp : (s.onProg p f).prog p = f (s.prog p) := by simp
  exact ⟨rfl, fun q hq => by simp [hq], hp ▸ hm, hp ▸ hg, hp ▸ hf⟩

/-- An operation that rewrites a programme and joins its group changes nothing but the programmes. -/
theorem State.joinGroup_onProg_frame (s : State) (p : Prog) (f : Programme → Programme) :
    (s.onProg p f).joinGroup p = { s with progs := ((s.onProg p f).joinGroup p).progs } := by
  rw [State.joinGroup_frame]
  rfl

theorem State.joinGroup_within (s o : State) (p : Prog) : (s.within o).joinGroup p = (s.joinGroup p).within o := by
  simp only [State.joinGroup, show (s.within o).joiningValue p = s.joiningValue p from rfl]
  cases s.joiningValue p <;> rfl

/-- A newcomer from OFF, with its factor set at once (R12). -/
theorem Programme.leaveOff_moveGain (lost : Bool) (v : Int) (P : Programme) :
    ((P.leaveOff lost .active).moveGain v).settleFactor = { P with
      mode := .active, gcur := v, settleCount := 0, settled := false
      front := { P.front with sumL := 0, sumR := 0, frameCount := 0 }
      out := if lost then { P.out with applied := factor v, ramp := none }
             else { P.out with applied := factor v, ramp := none, line := List.replicate 48 .zero,
                               pipeline := List.replicate 2 .zero, reduction := 0 } } := by
  rw [Programme.leaveOff_eq, Programme.moveGain_on (by simp)]
  simp only [Programme.settleFactor, OutputStage.setFactor]
  cases lost <;> split <;> rfl

/-- A newcomer from MEASURE, where the gain was 0 (R13, R82). -/
theorem Programme.toActive_moveGain {P : Programme} (h : P.gcur = 0) (v : Int) : P.toActive.moveGain v = { P with
    mode := .active, gcur := v, settleCount := 0, settled := false
    out := if v = 0 then P.out
           else { P.out with ramp := some { start := P.out.applied, fin := factor v, left := 480 } } } := by
  rw [Programme.moveGain_on (by simp [Programme.toActive])]
  simp only [Programme.toActive, Programme.unsettle, h]

theorem State.activateFromOff_within (s o : State) (lost : Bool) (p : Prog) :
    (s.within o).activateFromOff lost p = (s.activateFromOff lost p).within o := by
  have hj := (s.onProg p (Programme.leaveOff lost .active)).joinGroup_within o p
  simp only [State.activateFromOff]
  rw [show (s.within o).onProg p (Programme.leaveOff lost .active) = (s.onProg p (Programme.leaveOff lost .active)).within o from rfl,
    hj]
  generalize (s.onProg p (Programme.leaveOff lost .active)).joinGroup p = u
  rfl

theorem State.activateFromOff_frame (s : State) (lost : Bool) (p : Prog) :
    s.activateFromOff lost p = { s with progs := (s.activateFromOff lost p).progs } := by
  simp only [State.activateFromOff]
  rw [State.joinGroup_onProg_frame]
  generalize ((s.onProg p (Programme.leaveOff lost .active)).joinGroup p).progs = v
  rfl

theorem State.activateFromMeasure_within (s o : State) (p : Prog) :
    (s.within o).activateFromMeasure p = (s.activateFromMeasure p).within o := by
  rw [State.activateFromMeasure, State.activateFromMeasure, ← State.joinGroup_within]
  rfl

/-- The newcomer from OFF, and what it leaves of the other programmes. -/
theorem State.activateFromOff_joined {s : State} (p : Prog) (hg : s.GainsSound) : ∃ v,
    (s.activateFromOff s.clockLost p).prog p = (((s.prog p).leaveOff s.clockLost .active).moveGain v).settleFactor ∧
    ∀ t : State, (t.prog p).gcur = v → (∀ q, t.prog q = (s.activateFromOff s.clockLost p).prog q) → s.Joined p t := by
  have hn := s.newcomer_onProg p (f := Programme.leaveOff s.clockLost .active) rfl rfl rfl
  obtain ⟨v, hown, hrest⟩ := hn.joined hg
  refine ⟨v, ?_, fun t hv ht => hrest t hv fun q hq => ?_⟩
  · rw [State.activateFromOff, State.prog_onProg, if_pos rfl, hown, State.prog_onProg, if_pos rfl]
  · rw [ht, State.activateFromOff, State.prog_onProg, if_neg hq]

/-- The newcomer from MEASURE, and what it leaves of the other programmes. -/
theorem State.activateFromMeasure_joined {s : State} {p : Prog} (hg : s.GainsSound) (hz : (s.prog p).gcur = 0) : ∃ v,
    (s.activateFromMeasure p).prog p = (s.prog p).toActive.moveGain v ∧
    ∀ t : State, (t.prog p).gcur = v → (∀ q, t.prog q = (s.activateFromMeasure p).prog q) → s.Joined p t := by
  have hn := s.newcomer_onProg p (f := Programme.toActive) rfl hz rfl
  obtain ⟨v, hown, hrest⟩ := hn.joined hg
  refine ⟨v, ?_, fun t hv ht => hrest t hv fun q _ => ht q⟩
  rw [State.activateFromMeasure, hown, State.prog_onProg, if_pos rfl]

/-- Settles O39: the newcomer from OFF and from MEASURE. -/
theorem modeChangesToActive : Obligations.ModeChangesToActive := by
  intro s port target p h ht hg P hm
  cases ho : P.mode with
  | active => exact absurd ho hm
  | off =>
    obtain ⟨v, hown, hrest⟩ := s.activateFromOff_joined p hg
    rw [Programme.leaveOff_moveGain] at hown
    obtain ⟨t, hx, ha, hte, hprog⟩ := State.setMode_answers (b := 2) (m := .active) (k := State.activateFromOff s.clockLost p) h ht
      rfl (fun o => s.activateFromOff_within o _ p) (s.activateFromOff_frame _ p)
      (fun o => State.changeMode_off_active (s := s.within o) ho) (by rw [hown])
    have hP := (hprog p).trans hown
    have hv : (t.prog p).gcur = v := by rw [hP]
    have hj := hrest t hv hprog
    refine ⟨t, hx, ha, hte, by rw [hP], by rw [hP], by rw [hP], hj.alone, hj.member, hj.other, fun _ => ?_, fun hmm => ?_⟩
    · rw [hv]
      exact hP
    · cases hmm
  | measure =>
    have hz : P.gcur = 0 := (hg.1 p).2.2.2.1 ho
    obtain ⟨v, hown, hrest⟩ := State.activateFromMeasure_joined hg hz
    rw [Programme.toActive_moveGain hz] at hown
    obtain ⟨t, hx, ha, hte, hprog⟩ := State.setMode_answers (b := 2) (m := .active) (k := State.activateFromMeasure p) h ht rfl
      (fun o => s.activateFromMeasure_within o p) (s.joinGroup_onProg_frame p _)
      (fun o => State.changeMode_measure_active (s := s.within o) ho) (by rw [hown])
    have hP := (hprog p).trans hown
    have hv : (t.prog p).gcur = v := by rw [hP]
    have hj := hrest t hv hprog
    refine ⟨t, hx, ha, hte, by rw [hP], by rw [hP], by rw [hP], hj.alone, hj.member, hj.other, fun hmm => ?_, fun _ => ?_⟩
    · cases hmm
    · rw [hv]
      exact hP

end Sys2Proof.Machine

/-! PROOFS. RESET_PROGRAMME: what it clears, the gain it leaves, and the completion that comes before it (R18, R19, R36). -/

namespace Sys2Proof.Machine

/-! ### The table of R18 and the gain of R19 -/

/-- The output stage of a reset programme but for its factor and its ramp (R18). -/
theorem OutputStage.resetGain_frame (o : OutputStage) (m : Mode) : o.resetGain m = { o with
    applied := (o.resetGain m).applied, ramp := (o.resetGain m).ramp, reduction := 0, peak := 0, clips := 0 } := by
  simp only [OutputStage.resetGain]
  split
  · rfl
  · split <;> rfl

/-- In OFF the factor is unity at once (R19). -/
theorem OutputStage.resetGain_off (o : OutputStage) : (o.resetGain .off).applied = 4194304 ∧ (o.resetGain .off).ramp = none :=
  ⟨rfl, rfl⟩

/-- Elsewhere a ramp toward unity starts, unless the factor and the end of a running ramp are unity (R19). -/
theorem OutputStage.resetGain_on {m : Mode} (h : m ≠ .off) (o : OutputStage) : (o.resetGain m).applied = o.applied ∧
    (o.resetGain m).ramp = if o.applied = 4194304 ∧ ∀ r, o.ramp = some r → r.fin = 4194304 then o.ramp
      else some { start := o.applied, fin := 4194304, left := 480 } := by
  have hany : o.ramp.any (·.fin ≠ unity) = true ↔ ¬ ∀ r, o.ramp = some r → r.fin = 4194304 := by
    cases o.ramp with
    | none => simp
    | some r => simp only [Option.any_some, decide_eq_true_eq, Option.some.injEq, forall_eq']; rfl
  have hiff : (o.applied ≠ unity ∨ o.ramp.any (·.fin ≠ unity) = true) ↔
      ¬ (o.applied = 4194304 ∧ ∀ r, o.ramp = some r → r.fin = 4194304) := by
    rw [hany, not_and_or]
    rfl
  simp only [OutputStage.resetGain, if_neg h]
  split
  · rename_i hc
    rw [if_neg (hiff.1 hc)]
    exact ⟨rfl, rfl⟩
  · rename_i hc
    rw [if_pos (not_not.1 (mt hiff.2 hc))]
    exact ⟨rfl, rfl⟩

/-- What a reset leaves of its programme, `P` before it and `Q` after it (R18, R19). -/
structure Programme.Reset (P Q : Programme) : Prop where
  clears : Q = { P with
    front := { filterL := .clear, filterR := .clear, sumL := 0, sumR := 0, frameCount := 0, counter := 0 }
    queue := [], lost := 0, momentary := { cells := [], sum := 0 }, shortTerm := { cells := [], sum := 0 }
    histogram := { bins := Vector.replicate 292 0, below := 0 }
    readingM := none, readingS := none, readingI := none, gd := none, trim := 0, deviation := .normal
    faultCount := 0, settleCount := 0, settled := false
    gcur := Q.gcur
    out := { P.out with applied := Q.out.applied, ramp := Q.out.ramp, reduction := 0, peak := 0, clips := 0 } }
  off : P.mode = .off → Q.out.applied = 4194304 ∧ Q.out.ramp = none
  on : P.mode ≠ .off → Q.out.applied = P.out.applied ∧ Q.out.ramp =
    if Q.gcur ≠ 0 then some { start := P.out.applied, fin := factor Q.gcur, left := 480 }
    else if P.out.applied = 4194304 ∧ ∀ r, P.out.ramp = some r → r.fin = 4194304 then P.out.ramp
    else some { start := P.out.applied, fin := 4194304, left := 480 }

/-- Outside a group the gain is 0. -/
theorem Programme.reset_clearMeasurement (P : Programme) : P.Reset P.clearMeasurement where
  clears := by
    simp only [Programme.clearMeasurement]
    rw [P.out.resetGain_frame P.mode]
    rfl
  off h := by
    simp only [Programme.clearMeasurement, h]
    exact P.out.resetGain_off
  on h := P.out.resetGain_on h

/-- In a group the gain is the joining value, with a ramp of its own where that is not 0 (log entry 18). -/
theorem Programme.reset_moveGain {P : Programme} (h : P.mode = .active) (v : Int) : P.Reset (P.clearMeasurement.moveGain v) := by
  have hc := P.reset_clearMeasurement
  have hon : P.mode ≠ .off := by simp [h]
  by_cases hv : v = 0
  · rwa [hv, Programme.moveGain, if_pos (show P.clearMeasurement.gcur = 0 from rfl)]
  · have hm : P.clearMeasurement.moveGain v = { P.clearMeasurement with
        gcur := v
        out := { P.clearMeasurement.out with
          ramp := some { start := P.out.applied, fin := factor v, left := 480 } } } := by
      rw [Programme.moveGain_on (P := P.clearMeasurement) hon, if_neg (show ¬ v = P.clearMeasurement.gcur from hv), (hc.on hon).1]
    rw [hm]
    refine ⟨?_, fun ho => absurd ho hon, fun _ => ⟨(hc.on hon).1, (if_pos hv).symm⟩⟩
    rw [hc.clears]

/-! ### The reset of a programme with nothing due -/

/-- What R18 and R19 change, before the settled flag is compared. -/
def State.clearAndJoin (p : Prog) (s : State) : State :=
  if (s.prog p).mode = .active then (s.onProg p Programme.clearMeasurement).joinGroup p else s.onProg p Programme.clearMeasurement

/-- What R18 and R19 change. -/
def State.clearProgramme (p : Prog) (s : State) : State := (s.clearAndJoin p).fireSettled s p

theorem State.resetProgramme_eq (s : State) (p : Prog) : s.resetProgramme p = (s.complete p).clearProgramme p := rfl

theorem State.clearAndJoin_within (s o : State) (p : Prog) : (s.within o).clearAndJoin p = (s.clearAndJoin p).within o := by
  by_cases h : (s.prog p).mode = .active
  · rw [State.clearAndJoin, State.clearAndJoin, if_pos h, ← State.joinGroup_within]
    exact if_pos h
  · rw [State.clearAndJoin, State.clearAndJoin, if_neg h]
    exact if_neg h

theorem State.clearAndJoin_frame (s : State) (p : Prog) : s.clearAndJoin p = { s with progs := (s.clearAndJoin p).progs } := by
  simp only [State.clearAndJoin]
  split
  · exact s.joinGroup_onProg_frame p _
  · rfl

/-- The reset programme, outside OFF and MEASURE with its group. -/
theorem State.clearAndJoin_active {s : State} {p : Prog} (h : (s.prog p).mode = .active) (hg : s.GainsSound) : ∃ v,
    (s.clearAndJoin p).prog p = (s.prog p).clearMeasurement.moveGain v ∧
    ∀ t : State, (t.prog p).gcur = v → (∀ q, t.prog q = (s.clearAndJoin p).prog q) → s.Joined p t := by
  have hn := s.newcomer_onProg p (f := Programme.clearMeasurement) h rfl rfl
  obtain ⟨v, hown, hrest⟩ := hn.joined hg
  rw [State.clearAndJoin, if_pos h]
  refine ⟨v, ?_, fun t hv ht => hrest t hv fun q _ => ht q⟩
  rw [hown, State.prog_onProg, if_pos rfl]

theorem State.clearAndJoin_alone {s : State} {p : Prog} (h : (s.prog p).mode ≠ .active) (q : Prog) :
    (s.clearAndJoin p).prog q = if q = p then (s.prog q).clearMeasurement else s.prog q := by
  rw [State.clearAndJoin, if_neg h, State.prog_onProg]

theorem State.settled_clearAndJoin (s : State) (p : Prog) : ((s.clearAndJoin p).prog p).settled = false := by
  have hc : ((s.onProg p Programme.clearMeasurement).prog p).settled = false := by
    rw [State.prog_onProg, if_pos rfl]
    rfl
  rw [State.clearAndJoin]
  split
  · rcases (s.onProg p Programme.clearMeasurement).joinGroup_cases p with hj | ⟨g, hj⟩ <;> rw [hj]
    · exact hc
    · rw [State.prog_moveGroup]
      split
      · rw [Programme.moveGain_frame]
        exact hc
      · exact hc
  · exact hc

/-- SETTLED_CHANGE fires where the flag was set (R99, R100). -/
theorem State.fires_clearProgramme (s : State) (p : Prog) :
    s.Fires (State.clearProgramme p) (Source.settledChange.bitIf (s.prog p).settled) := by
  have h := State.fires_fireSettled (s := s) (g := State.clearAndJoin p) (.quiet fun o => s.clearAndJoin_within o p) p
  rwa [s.settled_clearAndJoin, Bool.false_bne] at h

theorem State.clearProgramme_frame (s : State) (p : Prog) :
    s.clearProgramme p = { s with progs := (s.clearAndJoin p).progs, notices := (s.clearProgramme p).notices } := by
  simp only [State.clearProgramme, State.fireSettled, State.fireIf_eq_fireSet]
  rw [s.clearAndJoin_frame]
  generalize (s.clearAndJoin p).progs = v
  rfl

/-! ### RESET_PROGRAMME -/

theorem serveResetProgramme_ready {s : State} {port : Port} {p : Prog} {target : Byte} (h : s.ReadyHolder port (progRecord p))
    (ht : target.toNat = p.val) :
    serveResetProgramme port target [] (s.hear port) = done ((s.hear port).resetProgramme p) :=
  programmeRequest_ready h ht rfl

/-- What the request leaves, by the events that the reset fires. -/
theorem exec_resetProgramme {s : State} {port : Port} {p : Prog} {target : Byte} {fired : SourceSet}
    (h : s.ReadyHolder port (progRecord p)) (ht : target.toNat = p.val) (hf : s.Fires (State.resetProgramme · p) fired) :
    ∃ t, exec (.resetProgramme port target []) s = .next t ∧ s.Answers t port 0x2A target .ok [] fired ∧
      t = { s.resetProgramme p with ports := t.ports, notices := t.notices } := by
  obtain ⟨t, hx, ha, hte⟩ := State.takeMessage_fires 0x2A target h.1.1 (by simp) (serveResetProgramme_ready h ht) hf
  exact ⟨t, congrArg Host.Outcome.next hx, ha, hte⟩

/-- With nothing due, the reset is what R18 and R19 change. -/
theorem State.fires_resetProgramme {s : State} {p : Prog} (h : (s.prog p).front.due = false) :
    s.Fires (State.resetProgramme · p) (Source.settledChange.bitIf (s.prog p).settled) :=
  (s.fires_clearProgramme p).of_eq fun o => by rw [State.resetProgramme_eq, State.complete_of_not_due (s := s.within o) h]

/-! ### A completion due (R36) -/

/-- Two answers to one request are the same state, where the first began with work of the audio side, done and followed, that changed
no condition, and the second did that work itself. -/
theorem State.answers_absorb {s u t v : State} {port : Port} {code target : Byte} {r : Result} {bytes : List Byte} {E F : SourceSet}
    (hu : u.ports = s.ports) (hn : ∀ q, u.notice q =
      { s.notice q with pending := (s.notice q).pending ||| ((s.notice q).mask &&& E) })
    (hc : u.conditions = s.conditions) (ht : (u.followFrom s).Answers t port code target r bytes F)
    (hv : s.Answers v port code target r bytes (E ||| F)) (he : t = { v with ports := t.ports, notices := t.notices }) :
    t = v := by
  obtain ⟨⟨hport, hports⟩, hnotice⟩ := ht
  obtain ⟨⟨hport', hports'⟩, hnotice'⟩ := hv
  have hq : ∀ q, (u.followFrom s).port q = s.port q := fun q => by simp [State.port, hu]
  have hP : t.ports = v.ports := State.ports_ext fun q => by
    by_cases e : q = port
    · rw [e, hport, hport', hq]
    · rw [hports q e, hports' q e, hq]
  have hcond : t.conditions = v.conditions := by
    rw [he]
    exact State.conditions_eq rfl rfl rfl hP
  have hN : t.notices = v.notices := State.notices_ext fun q => by
    rw [hnotice q, hnotice' q, hcond, State.conditions_followFrom, State.notice_followFrom, hc]
    have hone := Notice.follow_fired_follow (u.notice q) s.conditions s.conditions v.conditions F (by simp)
    simp only [hn q, Notice.follow, BitVec.and_or_distrib_left, ← BitVec.or_assoc] at hone ⊢
    exact hone
  rw [he, hP, hN]

/-- The completion that the reset would do, done before it and followed, makes no difference. -/
theorem exec_resetProgramme_completed {s : State} {port : Port} {p : Prog} {target : Byte} (h : s.ReadyHolder port (progRecord p))
    (ht : target.toNat = p.val) : exec (.resetProgramme port target []) ((s.complete p).followFrom s) =
      exec (.resetProgramme port target []) s := by
  obtain ⟨E, hE⟩ := audioOp_complete p s
  have hf := s.complete_frame p
  have hdue : ((s.complete p).prog p).front.due = false := by simp [State.due_complete]
  have hready : ((s.complete p).followFrom s).ReadyHolder port (progRecord p) := by
    rw [hf]
    exact h
  obtain ⟨t, hx, ha, he⟩ := exec_resetProgramme hready ht (State.fires_resetProgramme (s := (s.complete p).followFrom s) hdue)
  obtain ⟨v, hx', ha', he'⟩ := exec_resetProgramme h ht (hE.comp ((s.complete p).fires_clearProgramme p))
  have hc : (s.complete p).conditions = s.conditions := (audioOp_complete p).conditions_eq (by rw [hf]; rfl) (s.steady_complete p)
    (s.deviation_complete p)
  rw [hx, hx', State.answers_absorb ((audioOp_complete p).ports s) hE.notice hc ha ha' ?_]
  rw [he, he', State.resetProgramme_eq, State.resetProgramme_eq, State.complete_of_not_due (s := (s.complete p).followFrom s) hdue]
  have hw : (s.complete p).followFrom s = (s.complete p).within ((s.complete p).followFrom s) := rfl
  rw [hw, (s.complete p).fires_clearProgramme p ((s.complete p).followFrom s), State.clearProgramme_frame]
  generalize ((s.complete p).clearAndJoin p).progs = x
  rfl

/-- A completion that waits before the request comes first, as if it were not there (log entry 5). -/
theorem run_completion_resetProgramme {s : State} {port : Port} {p : Prog} {target : Byte} (h : s.ReadyHolder port (progRecord p))
    (ht : target.toNat = p.val) :
    run 2 { s with pending := [.subblockCompletion p, .resetProgramme port target []] } =
      exec (.resetProgramme port target []) { s with pending := [] } := by
  have hstep : ∀ l, exec (.subblockCompletion p) { s with pending := l } =
      .next { (s.complete p).followFrom s with pending := l } := fun l => by
    rw [← (audioOp_complete p).followFrom_pending s l]
    exact congrArg Host.Outcome.next (if_neg (by simp [h.1.1.1]))
  have hfirst : step { s with pending := [.subblockCompletion p, .resetProgramme port target []] } =
      .next { (s.complete p).followFrom s with pending := [.resetProgramme port target []] } := (step_cons rfl).trans (hstep _)
  refine (run_succ (k := 1) hfirst).trans ?_
  rw [run_one, step_cons rfl, ← exec_resetProgramme_completed (s := { s with pending := [] }) h ht,
    (audioOp_complete p).followFrom_pending s []]

/-- Settles O45: the completion first, then the reset alone and in its group. -/
theorem programmeResetClears : Obligations.ProgrammeResetClears := by
  intro s port target p h ht hg P
  refine ⟨fun _ => run_completion_resetProgramme h ht, fun hd => ?_⟩
  have hdue : (s.prog p).front.due = false := decide_eq_false (Nat.not_le.2 hd)
  obtain ⟨t, hx, ha, hte⟩ := exec_resetProgramme h ht (State.fires_resetProgramme hdue)
  rw [State.resetProgramme_eq, State.complete_of_not_due hdue, State.clearProgramme_frame] at hte
  have hprog : ∀ q, t.prog q = (s.clearAndJoin p).prog q := fun q => by
    rw [hte]
    rfl
  have hframe : t = { s with ports := t.ports, notices := t.notices, progs := t.progs } := by
    rw [hte]
  refine ⟨t, hx, ha, hframe, ?_⟩
  by_cases hm : P.mode = .active
  · obtain ⟨v, hown, hrest⟩ := State.clearAndJoin_active hm hg
    have hP := (hprog p).trans hown
    have hr : P.Reset (t.prog p) := hP ▸ Programme.reset_moveGain hm v
    have hj := hrest t (by rw [hP, Programme.moveGain_gcur]) hprog
    refine ⟨hr.clears, hr.off, hr.on, fun hq => ⟨hj.alone fun q hqp hs hact => hq q hqp hs hact hm, fun q hqp => ?_⟩,
      fun _ q hqp => ⟨hj.member q hqp, hj.other q hqp⟩⟩
    refine hj.other q hqp ?_
    cases hs : s.sameGroup p q with
    | false => exact .inl rfl
    | true => exact .inr fun hact => hq q hqp hs hact hm
  · have hP := (hprog p).trans ((State.clearAndJoin_alone hm p).trans (if_pos rfl))
    have hr : P.Reset (t.prog p) := hP ▸ P.reset_clearMeasurement
    refine ⟨hr.clears, hr.off, hr.on, fun _ => ⟨by rw [hP]; rfl, fun q hqp => ?_⟩, fun hact => absurd hact hm⟩
    exact (hprog q).trans ((State.clearAndJoin_alone hm q).trans (if_neg hqp))

end Sys2Proof.Machine

/-! PROOFS. What a programme's stores hold, part by part, and the operations of one programme that keep it (R25 to R34, R49 to R51, R58,
R66, R97 to R100, R104, R107, R112). -/

namespace Sys2Proof.Machine

/-! ### The parts -/

/-- A ring of `cap` places is sound and gives the reading of its window (R49 to R51). -/
structure Ring.Gives (cap : Nat) (r : Ring) (reading : Option Int) : Prop where
  sound : r.Sound cap
  reading : reading = (r.mean cap).map level

/-- A histogram in range, with an integrated reading exactly where it holds a block (R58, R66). -/
structure Histogram.Gives (h : Histogram) (reading : Option Int) : Prop where
  bins : ∀ i : Fin 292, h.bins[i] ≤ 65535
  below : h.below ≤ 2 ^ 32 - 1
  reading : reading.isSome = true ↔ 1 ≤ h.n1

/-- An output stage with full delay lines, its clip count and its ramp in range (R104, R107, R112). -/
structure OutputStage.Sound (o : OutputStage) : Prop where
  line : o.line.length = 48
  pipeline : o.pipeline.length = 2
  bypass : o.bypass.length = 50
  clips : o.clips ≤ 65535
  ramp : ∀ r, o.ramp = some r → r.left ≤ 480

/-- The parts of `Programme.StoresSound`. -/
structure Programme.Stored (P : Programme) : Prop where
  frames : P.front.frameCount ≤ 4800
  queue : P.queue.length ≤ 4 ∧ ∀ x ∈ P.queue, x.energy ≤ maxEnergy
  lost : P.lost ≤ 65535
  momentary : P.momentary.Gives 4 P.readingM
  shortTerm : P.shortTerm.Gives 30 P.readingS
  histogram : P.histogram.Gives P.readingI
  counts : P.faultCount ≤ 255 ∧ P.settleCount ≤ 255
  settled : P.mode ≠ .active → P.settled = false ∧ P.settleCount = 0
  out : P.out.Sound

theorem Programme.storesSound_iff (P : Programme) : P.StoresSound ↔ P.Stored := by
  constructor
  · rintro ⟨frames, length, energies, lost, momentary, shortTerm, readingM, readingS, bins, below, readingI, fault, settle, settled,
      line, pipeline, bypass, clips, ramp⟩
    exact ⟨frames, ⟨length, energies⟩, lost, ⟨momentary, readingM⟩, ⟨shortTerm, readingS⟩, ⟨bins, below, readingI⟩,
      ⟨fault, settle⟩, settled, ⟨line, pipeline, bypass, clips, ramp⟩⟩
  · rintro ⟨frames, ⟨length, energies⟩, lost, ⟨momentary, readingM⟩, ⟨shortTerm, readingS⟩, ⟨bins, below, readingI⟩,
      ⟨fault, settle⟩, settled, ⟨line, pipeline, bypass, clips, ramp⟩⟩
    exact ⟨frames, length, energies, lost, momentary, shortTerm, readingM, readingS, bins, below, readingI, fault, settle, settled,
      line, pipeline, bypass, clips, ramp⟩

theorem Programme.stored_reset : Programme.reset.Stored := (Programme.storesSound_iff _).1 Programme.reset_storesSound

theorem satSucc_le (top n : Nat) : satSucc top n ≤ top := Nat.min_le_left _ _

/-! ### The output stage -/

/-- A delay line that lets go its oldest pair for a new one keeps its length. -/
theorem length_tail_append {α : Type} {l : List α} {n : Nat} (h : l.length = n + 1) (x : α) : (l.tail ++ [x]).length = n + 1 := by
  simp [h]

namespace OutputStage.Sound
variable {o : OutputStage}

theorem startRamp (h : o.Sound) (fin : Nat) : (o.startRamp fin).Sound :=
  { h with ramp := fun r hr => by obtain rfl := Option.some.inj hr; exact le_rfl }

theorem setFactor (h : o.Sound) (f : Nat) : (o.setFactor f).Sound := { h with ramp := fun _ hr => nomatch hr }

theorem completeRamp (h : o.Sound) : o.completeRamp.Sound := by
  unfold OutputStage.completeRamp
  split
  · exact h.setFactor _
  · exact h

theorem endRamp (h : o.Sound) : o.endRamp.Sound := by
  unfold OutputStage.endRamp
  split
  · exact h.completeRamp
  · exact h

theorem fillProcessed (h : o.Sound) : o.fillProcessed.Sound :=
  { h with line := List.length_replicate, pipeline := List.length_replicate }

theorem fillBypass (h : o.Sound) : o.fillBypass.Sound := { h with bypass := List.length_replicate }

theorem startAfresh (h : o.Sound) (lost : Bool) : (o.startAfresh lost).Sound := by
  cases lost with
  | true => exact h
  | false => exact { h.fillProcessed with }

theorem clearStatistics (h : o.Sound) (d : Nat) : { o with reduction := d, peak := 0, clips := 0 : OutputStage }.Sound :=
  { h with clips := Nat.zero_le _ }

theorem resetGain (h : o.Sound) (m : Mode) : (o.resetGain m).Sound := by
  simp only [OutputStage.resetGain]
  split
  · exact (h.clearStatistics 0).setFactor _
  · split
    · exact (h.clearStatistics 0).startRamp _
    · exact h.clearStatistics 0

theorem pushBypass (h : o.Sound) (x : Pair) : (o.pushBypass x).Sound := { h with bypass := length_tail_append h.bypass x }

theorem advanceRamp (h : o.Sound) : ∀ r, o.advanceRamp.ramp = some r → r.left ≤ 480 := by
  unfold OutputStage.advanceRamp
  split
  · exact h.ramp
  · rename_i r hr
    intro r' hr'
    obtain rfl := Option.some.inj hr'
    exact (Nat.sub_le _ _).trans (h.ramp r hr)

theorem frameStep (h : o.Sound) (f : Profile) (x : Pair) : (o.frameStep f x).stage.Sound := by
  rw [OutputStage.frameStep_eq h.pipeline]
  refine ⟨length_tail_append h.line _, length_tail_append h.pipeline _, h.bypass, ?_, h.advanceRamp⟩
  dsimp only
  split
  · exact satSucc_le _ _
  · exact h.clips

end OutputStage.Sound

/-! ### The histogram -/

theorem halveBins_getElem (b : Vector Nat 292) (i : Fin 292) : (halveBins b)[i] = b[i] / 2 := by
  simp [halveBins]

/-- The bins with room in bin `i`: every bin is halved where that one is full (R61). -/
def Histogram.withRoom (h : Histogram) (i : Fin 292) : Vector Nat 292 :=
  if maxBin ≤ h.bins[i] then halveBins h.bins else h.bins

theorem Histogram.withRoom_le {h : Histogram} (hb : ∀ i : Fin 292, h.bins[i] ≤ 65535) (i : Fin 292) :
    (∀ j : Fin 292, (h.withRoom i)[j] ≤ 65535) ∧ (h.withRoom i)[i] + 1 ≤ 65535 := by
  unfold Histogram.withRoom
  split
  · have hi := hb i
    refine ⟨fun j => ?_, ?_⟩ <;> rw [halveBins_getElem]
    · exact (Nat.div_le_self _ _).trans (hb j)
    · omega
  · rename_i hfull
    exact ⟨hb, Nat.lt_of_not_le hfull⟩

theorem Histogram.enter_below {lm : Int} (h : Histogram) (hl : lm < gateLevel) :
    h.enter lm = { h with below := satSucc (2 ^ 32 - 1) h.below } := if_pos hl

theorem Histogram.enter_bin {lm : Int} (h : Histogram) (hl : ¬ lm < gateLevel) : h.enter lm =
    { h with bins := (h.withRoom (binOf lm)).set (binOf lm).val ((h.withRoom (binOf lm))[binOf lm] + 1) } := if_neg hl

/-- There is an integrated reading exactly where a bin counts a block (R64, R66). -/
theorem Histogram.integrated_isSome (h : Histogram) : h.integrated.isSome = true ↔ 1 ≤ h.n1 := by
  by_cases hn : h.n1 = 0
  · have hi : h.integrated = none := if_pos hn
    simp [hi, hn]
  · have hi : h.integrated.isSome = true := by
      unfold Histogram.integrated
      rw [if_neg (show ¬ h.bins.toList.sum = 0 from hn)]
      rfl
    simp only [hi, true_iff]
    omega

/-- A block that is entered, with the integrated reading computed again where it took a bin (R60, R61, R67). -/
theorem Histogram.Gives.enter {h : Histogram} {reading : Option Int} (hs : h.Gives reading) (lm : Int) :
    (h.enter lm).Gives (if lm < gateLevel then reading else (h.enter lm).integrated) := by
  by_cases hl : lm < gateLevel
  · rw [if_pos hl, h.enter_below hl]
    exact { hs with below := satSucc_le _ _ }
  · rw [if_neg hl]
    refine ⟨fun i => ?_, ?_, Histogram.integrated_isSome _⟩ <;> rw [h.enter_bin hl]
    · obtain ⟨hall, hone⟩ := Histogram.withRoom_le hs.bins (binOf lm)
      rw [Fin.getElem_fin, Vector.getElem_set]
      split
      · exact hone
      · exact hall i
    · exact hs.below

/-! ### One programme -/

namespace Programme.Stored
variable {P : Programme}

theorem moveGain (h : P.Stored) (g : Int) : (P.moveGain g).Stored := by
  unfold Programme.moveGain
  split
  · exact h
  split
  · exact { h with }
  · exact { h with out := h.out.startRamp _ }

theorem discard (h : P.Stored) : { P with front := P.front.discard : Programme }.Stored := { h with frames := Nat.zero_le _ }

theorem endRamp (h : P.Stored) : { P with out := P.out.endRamp : Programme }.Stored := { h with out := h.out.endRamp }

theorem restartSegment (h : P.Stored) : P.restartSegment.Stored :=
  { h with
    histogram := Programme.stored_reset.histogram
    out := h.out.clearStatistics _ }

/-- In any mode, with the settle state cleared. -/
theorem unsettle (h : P.Stored) (m : Mode) : { P.unsettle with mode := m : Programme }.Stored :=
  { h with counts := ⟨h.counts.1, Nat.zero_le _⟩, settled := fun _ => ⟨rfl, rfl⟩ }

theorem enterOff (h : P.Stored) : P.enterOff.Stored := (h.unsettle .off).discard

theorem leaveOff (h : P.Stored) (lost : Bool) (m : Mode) : (P.leaveOff lost m).Stored :=
  { (h.unsettle m).discard with out := (h.out.startAfresh lost).setFactor _ }

theorem toMeasure (h : P.Stored) : P.toMeasure.Stored := (h.moveGain 0).unsettle .measure

theorem toActive (h : P.Stored) : P.toActive.Stored := h.unsettle .active

theorem settleFactor (h : P.Stored) : P.settleFactor.Stored := { h with out := h.out.setFactor _ }

theorem clearMeasurement (h : P.Stored) : P.clearMeasurement.Stored :=
  { Programme.stored_reset with
    settled := fun _ => ⟨rfl, rfl⟩
    out := h.out.resetGain _ }

theorem returnClock (h : P.Stored) : P.returnClock.Stored :=
  { h.discard with out := { h.out.fillProcessed.fillBypass.completeRamp with } }

theorem supervise (h : P.Stored) : P.supervise.Stored := by
  have deviation : ∀ size, (P.updateDeviation size).Stored ∧ (P.updateDeviation size).mode = P.mode := fun size => by
    unfold Programme.updateDeviation
    split
    · exact ⟨{ h with counts := ⟨Nat.zero_le _, h.counts.2⟩ }, rfl⟩
    split
    · exact ⟨{ h with counts := ⟨Nat.zero_le _, h.counts.2⟩ }, rfl⟩
    · exact ⟨{ h with counts := ⟨satSucc_le _ _, h.counts.2⟩ }, rfl⟩
  have settle : ∀ {Q : Programme} size, Q.Stored → Q.mode = .active → (Q.updateSettle size).Stored := fun size hQ hm => by
    unfold Programme.updateSettle
    split
    · exact { hQ with counts := ⟨hQ.counts.1, satSucc_le _ _⟩, settled := fun hn => absurd hm hn }
    · exact hQ.unsettle _
  unfold Programme.supervise
  split
  · exact h
  · dsimp only
    split
    · rename_i hm
      exact settle _ (deviation _).1 hm
    · exact (deviation _).1

theorem pushEnergy (h : P.Stored) {e : Nat} (he : e ≤ maxEnergy) : (P.pushEnergy e).Stored := by
  have hg : (P.pushEnergy e).histogram.Gives (P.pushEnergy e).readingI := by
    simp only [Programme.pushEnergy]
    split
    · exact h.histogram.enter _
    · exact h.histogram
  rw [P.pushEnergy_frame]
  exact { h with
    momentary := ⟨Ring.push_sound h.momentary.sound (by decide) he, rfl⟩
    shortTerm := ⟨Ring.push_sound h.shortTerm.sound (by decide) he, rfl⟩
    histogram := hg }

theorem consume (h : P.Stored) : P.consume.Stored := by
  unfold Programme.consume
  split
  · exact h
  · rename_i x rest hq
    obtain ⟨hlen, hen⟩ := h.queue
    rw [hq] at hlen hen
    have hrest : { P with queue := rest : Programme }.Stored :=
      { h with queue := ⟨(Nat.le_succ _).trans hlen, fun y hy => hen y (List.mem_cons_of_mem _ hy)⟩ }
    exact hrest.pushEnergy (hen x List.mem_cons_self)

/-- A record admitted to a queue with room, or lost to a full one (R33, R34). -/
theorem append (h : P.Stored) {x : SubBlock} (hx : x.energy ≤ maxEnergy) (hr : P.queue.length < 4) :
    { P with queue := P.queue ++ [x] : Programme }.Stored :=
  { h with queue := ⟨by simpa using hr, fun y hy => by
      rcases List.mem_append.1 hy with hy | hy
      · exact h.queue.2 y hy
      · exact List.mem_singleton.1 hy ▸ hx⟩ }

/-- A frame is counted where no completion is due before it (R22, R29). -/
theorem frame (h : P.Stored) (hd : P.front.due = false) (x : Pair) : (P.frame x).1.Stored := by
  by_cases hm : P.mode = .off
  · rw [Programme.frame_off hm]
    exact { h with out := h.out.pushBypass x }
  · rw [Programme.frame_on hm]
    refine { h with frames := ?_, out := (h.out.frameStep _ x).pushBypass x }
    exact Nat.lt_of_not_le (of_decide_eq_false hd)

end Programme.Stored

theorem FrontEnd.energy_le (f : FrontEnd) : f.energy ≤ maxEnergy := Nat.min_le_left _ _

end Sys2Proof.Machine

/-! PROOFS. The stores, the scan engine and the cue log through every operation of the part (R25 to R60, R150). -/

namespace Sys2Proof.Machine

/-- The stores of every programme, the scan engine and the cue log are sound. -/
structure State.Stored (s : State) : Prop where
  progs : ∀ p, (s.prog p).Stored
  engine : s.EngineSound

namespace State.Stored
variable {s t : State}

/-! ### What the updates of the state must keep -/

theorem of_eq (h : s.Stored) (hp : t.progs = s.progs) (hs : t.scan = s.scan) (hl : t.cueLog = s.cueLog) : t.Stored := by
  refine ⟨fun p => ?_, ?_⟩
  · rw [State.prog, hp]
    exact h.progs p
  · unfold State.EngineSound
    rw [hs, hl]
    exact h.engine

theorem mapProgs (h : s.Stored) {f : Prog → Programme → Programme} (hf : ∀ p, (f p (s.prog p)).Stored) : (s.mapProgs f).Stored :=
  ⟨fun p => by rw [State.prog_mapProgs]; exact hf p, h.engine⟩

theorem onProg (h : s.Stored) {p : Prog} {f : Programme → Programme} (hf : (f (s.prog p)).Stored) : (s.onProg p f).Stored :=
  h.mapProgs fun q => by
    split
    · rename_i e
      exact e ▸ hf
    · exact h.progs q

theorem fire (h : s.Stored) (x : Source) : (s.fire x).Stored := h.of_eq rfl rfl rfl

theorem fireIf (h : s.Stored) (b : Bool) (x : Source) : (s.fireIf b x).Stored := h.of_eq (by simp) (by simp) (by simp)

theorem followFrom (h : s.Stored) (u : State) : (s.followFrom u).Stored := h.of_eq rfl rfl rfl

theorem onPort (h : s.Stored) (port : Port) (f : PortState → PortState) : (s.onPort port f).Stored := h.of_eq rfl rfl rfl

theorem onCue (h : s.Stored) (l : CueLine) (f : CueState → CueState) : (s.onCue l f).Stored := h.of_eq rfl rfl rfl

/-! ### Gains and slots -/

theorem moveGroup (h : s.Stored) (p : Prog) (g : Int) : (s.moveGroup p g).Stored :=
  h.mapProgs fun q => by
    split
    · exact (h.progs q).moveGain g
    · exact h.progs q

theorem joinGroup (h : s.Stored) (p : Prog) : (s.joinGroup p).Stored := by
  rcases s.joinGroup_cases p with e | ⟨g, e⟩ <;> rw [e]
  · exact h
  · exact h.moveGroup p g

theorem clampGain (h : s.Stored) (p : Prog) : (s.clampGain p).Stored := by
  obtain ⟨active, measure, off⟩ := s.clampGain_eq p
  cases hm : (s.prog p).mode with
  | active => exact active hm ▸ h.moveGroup p _
  | measure => exact (measure hm).symm ▸ h
  | off => exact off hm ▸ h.onProg ((h.progs p).moveGain _)

theorem switchSlot (h : s.Stored) (p : Prog) : (s.switchSlot p).Stored :=
  ((h.onProg (f := fun P => { P with inService := otherSlot P.inService }) { h.progs p with }).fire _).clampGain p

theorem storeSlot (h : s.Stored) (p : Prog) (i : Slot) (f : Profile) : (s.storeSlot p i f).Stored := by
  have hs := h.onProg (f := fun P => { P with slots := P.slots.set i.val f }) (p := p) { h.progs p with }
  simp only [State.storeSlot]
  split
  · exact hs.clampGain p
  · exact hs

theorem fireSettled (h : s.Stored) (u : State) (p : Prog) : (s.fireSettled u p).Stored := h.fireIf _ _

/-! ### Sub-blocks and visits -/

theorem consultSchedule (h : s.Stored) (p : Prog) (c : Count32) : (s.consultSchedule p c).Stored := by
  have hk : ∀ k, (s.onProg p fun P => { P with schedule := k }).Stored := fun k => h.onProg { h.progs p with }
  simp only [State.consultSchedule]
  split
  · exact h
  split
  · exact (hk _).switchSlot p
  split
  · exact (hk _).switchSlot p
  · exact h

theorem enqueue (h : s.Stored) (p : Prog) {x : SubBlock} (hx : x.energy ≤ maxEnergy) : (s.enqueue p x).Stored := by
  simp only [State.enqueue]
  split
  · exact h
  split
  · rename_i hroom
    exact h.onProg ((h.progs p).append hx hroom)
  · exact (h.onProg (f := fun P => { P with lost := satSucc 65535 P.lost }) { h.progs p with lost := satSucc_le _ _ }).fire _

theorem complete (h : s.Stored) (p : Prog) : (s.complete p).Stored := by
  cases hd : (s.prog p).front.due with
  | false => rwa [State.complete_of_not_due hd]
  | true =>
    rw [State.complete_of_due hd]
    exact ((h.onProg { h.progs p with frames := Nat.zero_le _ }).consultSchedule p _).enqueue p (FrontEnd.energy_le _)

theorem completes (h : s.Stored) (l : List Prog) : (l.foldl State.complete s).Stored := by
  induction l generalizing s with
  | nil => exact h
  | cons p ps ih => exact ih (h.complete p)

theorem stepGroup (h : s.Stored) (p : Prog) : (s.stepGroup p).Stored := by
  unfold State.stepGroup
  split
  · exact h.moveGroup p _
  · exact h

theorem gainLaw (h : s.Stored) (p : Prog) : (s.gainLaw p).Stored := by
  unfold State.gainLaw
  split
  · exact h
  · rename_i r _
    have hd := h.onProg (p := p) (f := fun P => { P with gd := some (P.desiredGain r) }) { h.progs p with }
    have hg : ∀ {u : State}, u.Stored → (if u.head p = some p then u.stepGroup p else u).Stored := fun hu => by
      split
      · exact hu.stepGroup p
      · exact hu
    exact ((hg hd).onProg ((hg hd).progs p).supervise).fireSettled s p

theorem visit (h : s.Stored) (e : ScanEntry) : (s.visit e).Stored := by
  cases e with
  | none => exact h
  | some p =>
    simp only [State.visit]
    split
    · exact h
    · exact (h.onProg (h.progs p).consume.consume).gainLaw p

/-- The divider reloads and the index moves within the table (R39, R43). -/
theorem advanceScan (h : s.Stored) {next : Nat} (hn : next < s.scan.table.length) : (s.advanceScan next).Stored := by
  obtain ⟨lo, hi, -, one, sixteen, -, log⟩ := h.engine
  exact ⟨h.progs, lo, hi, hi, one, sixteen, hn, log⟩

theorem tick (h : s.Stored) : s.tick.Stored := by
  cases hd : s.tickDue with
  | false => rwa [State.tick_of_not_due hd]
  | true =>
    rw [State.tick_of_due hd]
    obtain ⟨-, -, -, one, -⟩ := h.engine
    refine (h.advanceScan ?_).visit _
    split <;> omega

/-! ### Frames -/

theorem endRamps (h : s.Stored) : s.endRamps.Stored := h.mapProgs fun p => (h.progs p).endRamp

theorem carryOut (h : s.Stored) : s.carryOut.Stored := (h.endRamps.completes allProgs).tick

/-- A frame is counted by programmes with no completion due, and by the divider (R22, R39). -/
theorem takeFrame (h : s.Stored) (hd : ∀ p, (s.prog p).front.due = false) (slots : Vector TdmWord 16) :
    (s.takeFrame slots).Stored := by
  refine ⟨fun p => ?_, ?_⟩
  · rw [State.prog_takeFrame]
    exact (h.progs p).frame (hd p) _
  · rw [(s.takeFrame_frame slots).1]
    obtain ⟨lo, hi, count, rest⟩ := h.engine
    exact ⟨lo, hi, (Nat.sub_le _ _).trans count, rest⟩

theorem loseClock (h : s.Stored) : s.loseClock.Stored :=
  (h.mapProgs (f := fun _ P => { P with front := P.front.discard }) fun p => (h.progs p).discard).of_eq rfl rfl rfl

theorem returnClock (h : s.Stored) : s.returnClock.Stored := by
  have hm := h.mapProgs (f := fun _ P => P.returnClock) fun p => (h.progs p).returnClock
  obtain ⟨lo, hi, -, rest⟩ := hm.engine
  exact ⟨hm.progs, lo, hi, hi, rest⟩

/-! ### Cue lines -/

theorem logCue (h : s.Stored) (e : CueEntry) : (s.logCue e).Stored := by
  obtain ⟨room, full⟩ := s.logCue_cases e
  by_cases hl : s.cueLog.length < 8
  · rw [room hl]
    obtain ⟨lo, hi, count, one, sixteen, next, -⟩ := h.engine
    exact ⟨h.progs, lo, hi, count, one, sixteen, next, by simpa using hl⟩
  · rw [full (Nat.le_of_not_lt hl)]
    exact h.of_eq rfl rfl rfl

theorem dropEntries (h : s.Stored) (n : Nat) : { s with cueLog := s.cueLog.drop n : State }.Stored := by
  obtain ⟨lo, hi, count, one, sixteen, next, log⟩ := h.engine
  exact ⟨h.progs, lo, hi, count, one, sixteen, next, by rw [List.length_drop]; exact (Nat.sub_le _ _).trans log⟩

theorem capture (h : s.Stored) (l : CueLine) (k : CueKind) (a : CueAction) : (s.capture l k a).Stored := (h.complete _).logCue _

theorem applyAction (h : s.Stored) (p : Prog) (a : CueAction) : (s.applyAction p a).Stored := by
  cases a with
  | nothing => exact h
  | restart => exact h.onProg (h.progs p).restartSegment
  | swap => exact h.switchSlot p
  | pause => exact h.onProg { h.progs p with }

theorem assertCue (h : s.Stored) (l : CueLine) : (s.assertCue l).Stored := ((h.onCue l _).capture l _ _).applyAction _ _

theorem unpauseCue (h : s.Stored) (p : Prog) : (s.unpauseCue p).Stored := h.onProg { h.progs p with }

theorem releaseCue (h : s.Stored) (l : CueLine) : (s.releaseCue l).Stored := by
  have hu : ∀ {u : State}, u.Stored → ∀ (c : Prop) [Decidable c] (p : Prog), (if c then u.unpauseCue p else u).Stored :=
    fun hu c _ p => by
      split
      · exact hu.unpauseCue p
      · exact hu
  simp only [State.releaseCue]
  split
  · exact (hu ((h.complete _).onCue l _) _ _).capture l _ _
  · exact hu ((h.complete _).onCue l _) _ _

theorem sampleCue (h : s.Stored) (l : CueLine) (pin : Bool) : (s.sampleCue l pin).Stored := by
  simp only [State.sampleCue]
  split
  · exact h
  split
  · exact h.onCue l _
  split
  · unfold State.qualifyCue
    split
    · exact h.releaseCue l
    · exact h.assertCue l
  · exact h.onCue l _

theorem sampleCues (h : s.Stored) (pins : BitVec 4) : (s.sampleCues pins).Stored := by
  unfold State.sampleCues
  generalize allLines = ls
  induction ls generalizing s with
  | nil => exact h
  | cons l ls ih => exact ih (h.sampleCue l _)

theorem configureCue (h : s.Stored) (l : CueLine) (f : CueConfig) : (s.configureCue l f).Stored := by
  simp only [State.configureCue]
  split
  · exact (h.unpauseCue _).onCue l _
  · exact h.onCue l _

/-! ### Modes, resets and links -/

theorem changeMode (h : s.Stored) (p : Prog) (m : Mode) : (s.changeMode p m).Stored := by
  rcases s.changeMode_cases p m with e | ⟨f, hf, e⟩ | e | e <;> rw [e]
  · exact h
  · refine (h.onProg ?_).fireSettled s p
    simp only [List.mem_cons, List.not_mem_nil, or_false] at hf
    obtain rfl | rfl | rfl := hf
    · exact (h.progs p).enterOff
    · exact (h.progs p).leaveOff _ _
    · exact (h.progs p).toMeasure
  · have hj := (h.onProg ((h.progs p).leaveOff s.clockLost .active)).joinGroup p
    exact (hj.onProg (hj.progs p).settleFactor).fireSettled s p
  · exact ((h.onProg (h.progs p).toActive).joinGroup p).fireSettled s p

theorem clearProgramme (h : s.Stored) (p : Prog) : (s.clearProgramme p).Stored := by
  have hc := h.onProg (h.progs p).clearMeasurement
  refine State.Stored.fireSettled ?_ s p
  unfold State.clearAndJoin
  split
  · exact hc.joinGroup p
  · exact hc

theorem resetProgramme (h : s.Stored) (p : Prog) : (s.resetProgramme p).Stored := (h.complete p).clearProgramme p

theorem setLink (h : s.Stored) (k : LinkFlag) (b : Bool) : (s.setLink k b).Stored := by
  have hl : { s with links := s.links.set k.val b : State }.Stored := h.of_eq rfl rfl rfl
  simp only [State.setLink]
  split
  · exact h
  split
  · exact hl.joinGroup _
  · exact hl

theorem resetTo (s : State) (b : Bool) (r : ResetRecord) (a : Port → Access) : (s.resetTo b r a).Stored :=
  have hr : State.reset.Stored := ⟨fun p => by rw [State.prog_reset]; exact Programme.stored_reset, State.reset_engineSound⟩
  hr.of_eq rfl rfl rfl

end State.Stored

/-- After their completions the programmes of a list have none due, and the others are due as before (R29). -/
theorem State.due_completes (l : List Prog) (s : State) (q : Prog) :
    ((l.foldl State.complete s).prog q).front.due = (decide (q ∉ l) && (s.prog q).front.due) := by
  induction l generalizing s with
  | nil => simp
  | cons p ps ih =>
    rw [List.foldl_cons, ih, State.due_complete]
    by_cases e : q = p <;> simp [e]

/-- With what is due carried out no completion is due. -/
theorem State.due_carryOut (s : State) (q : Prog) : (s.carryOut.prog q).front.due = false := by
  rw [State.carryOut_eq, (State.visited_tick _ q).front, State.completeAll, State.due_completes]
  simp [mem_allProgs]

end Sys2Proof.Machine

/-! PROOFS. The stores, the scan engine and the cue log through every request, every command and every step. -/

namespace Sys2Proof.Machine

/-- The value that a request is served with is the one that its payload gives. -/
theorem needValue_state_of_eq {I : State → Prop} {s : State} {α : Type} {x : Option α} {k : α → Reply} (h : I s)
    (hk : ∀ a, x = some a → I (k a).state) : I (needValue x s k).state := by
  cases x with
  | none => exact h
  | some a => exact hk a rfl

theorem length_scanEntriesOf {bytes : List Byte} {entries : List ScanEntry} (h : scanEntriesOf bytes = some entries) :
    entries.length = bytes.length := by
  unfold scanEntriesOf at h
  induction bytes generalizing entries with
  | nil =>
    rw [List.mapM_nil] at h
    obtain rfl := Option.some.inj h
    rfl
  | cons b bs ih =>
    rw [List.mapM_cons] at h
    obtain ⟨e, -, h⟩ := Option.bind_eq_some_iff.1 h
    obtain ⟨es, hes, h⟩ := Option.bind_eq_some_iff.1 h
    obtain rfl := Option.some.inj h
    rw [List.length_cons, List.length_cons, ih hes]

/-- A table that LOAD_SCAN_TABLE accepts has an entry (R44). -/
theorem scanTableOf_pos {payload : List Byte} {entries : List ScanEntry} (h : scanTableOf payload = some entries) :
    1 ≤ entries.length := by
  cases payload with
  | nil => simp [scanTableOf] at h
  | cons n bs =>
    simp only [scanTableOf] at h
    split at h
    · cases h
    · rename_i hn
      rw [not_or, not_not] at hn
      rw [length_scanEntriesOf h, ← hn.2]
      have : n.toNat ≠ 0 := fun hz => hn.1 (BitVec.eq_of_toNat_eq hz)
      omega

namespace State.Stored
variable {s t : State}

/-! ### The requests -/

/-- A request that rewrites the programme of its TARGET by `f`. -/
theorem keeps_of_onProg {n : Nat} {f : List Byte → Programme → Programme} {k : State → Prog → List Byte → Reply} {serve : Serve}
    (hf : ∀ d {P : Programme}, P.Stored → (f d P).Stored) (hk : ∀ s p d, (k s p d).state = s.onProg p (f d))
    (he : ∀ port target payload (s : State), serve port target payload s = needFull port s (needSize n payload s <|
      needBelow 8 target s fun p => needClaim port (progRecord p) s (k s p payload))) : serve.Keeps State.Stored :=
  fun port target payload s h => by
  rw [he]
  exact programmeRequest_state h fun p => by
    rw [hk]
    exact h.onProg (hf payload (h.progs p))

theorem keeps_claim : Serve.Keeps State.Stored serveClaim := fun _ _ _ _ h =>
  needFull_state h (needSize_state h (needBelow_state h fun _ => by
    split
    · exact h.of_eq rfl rfl rfl
    · exact h))

theorem keeps_release : Serve.Keeps State.Stored serveRelease := fun _ _ _ _ h =>
  needFull_state h (needSize_state h (needBelow_state h fun _ => by
    split
    · exact h.of_eq rfl rfl rfl
    · exact h))

theorem keeps_setMode : Serve.Keeps State.Stored serveSetMode := fun _ _ _ _ h =>
  needFull_state h (needSize_state h (needBelow_state h fun p => needValue_state h fun m => needClaim_state h (h.changeMode p m)))

theorem keeps_writeProfile : Serve.Keeps State.Stored serveWriteProfile := fun _ _ _ _ h =>
  needFull_state h (by
    split
    · exact h
    · exact needBelow_state h fun p => needBelow_state h fun i => needValue_state h fun _ => needClaim_state h
        (needIdleSlot_state h (h.storeSlot p i _)))

theorem keeps_copyProfile : Serve.Keeps State.Stored serveCopyProfile := fun _ _ _ _ h =>
  needFull_state h (needSize_state h (needBelow_state h fun p => needBelow_state h fun i => needBelow_state h fun _ =>
    needBelow_state h fun _ => by
      split
      · exact h
      · exact needClaim_state h (needIdleSlot_state h (h.storeSlot p i _))))

theorem keeps_setTrim : Serve.Keeps State.Stored serveSetTrim :=
  keeps_of_onProg (f := fun d P => { P with trim := limit (-1200) 1200 (word16At d 0).toInt })
    (fun _ _ h => { h with }) (fun _ _ _ => rfl) fun _ _ _ _ => rfl

theorem keeps_setSchedule : Serve.Keeps State.Stored serveSetSchedule := fun _ _ _ s h =>
  have hk : ∀ p k, (s.onProg p fun P => { P with schedule := k }).Stored := fun p _ => h.onProg { h.progs p with }
  needFull_state h (needSize_state h (needBelow_state h fun p => needValue_state h fun _ => needClaim_state h (hk p _)))

theorem keeps_forceSlot : Serve.Keeps State.Stored serveForceSlot := fun _ _ _ _ h =>
  needFull_state h (needSize_state h (needBelow_state h fun p => needBelow_state h fun _ => needClaim_state h (by
    dsimp only [done]
    split
    · exact h
    · exact h.switchSlot p)))

theorem keeps_setCount : Serve.Keeps State.Stored serveSetCount :=
  keeps_of_onProg (f := fun d P => { P with front := { P.front with counter := word32At d 0 } })
    (fun _ _ h => { h with }) (fun _ _ _ => rfl) fun _ _ _ _ => rfl

theorem keeps_restartSegment : Serve.Keeps State.Stored serveRestartSegment :=
  keeps_of_onProg (f := fun _ => Programme.restartSegment)
    (fun _ _ h => h.restartSegment) (fun _ _ _ => rfl) fun _ _ _ _ => rfl

theorem keeps_pause : Serve.Keeps State.Stored servePause :=
  keeps_of_onProg (f := fun _ P => { P with requestPause := true })
    (fun _ _ h => { h with }) (fun _ _ _ => rfl) fun _ _ _ _ => rfl

theorem keeps_resume : Serve.Keeps State.Stored serveResume :=
  keeps_of_onProg (f := fun _ P => { P with requestPause := false })
    (fun _ _ h => { h with }) (fun _ _ _ => rfl) fun _ _ _ _ => rfl

theorem keeps_resetProgramme : Serve.Keeps State.Stored serveResetProgramme := fun _ _ _ _ h =>
  programmeRequest_state h fun p => h.resetProgramme p

theorem keeps_setLink : Serve.Keeps State.Stored serveSetLink := fun _ _ _ _ h =>
  needFull_state h (needSize_state h (needBelow_state h fun k => needValue_state h fun b =>
    needClaim_state h (needClaim_state h (h.setLink k b))))

/-- The table keeps its one to sixteen entries, and the index starts at the first (R43, R44). -/
theorem keeps_loadScanTable : Serve.Keeps State.Stored serveLoadScanTable := fun _ _ _ _ h =>
  needFull_state h (needValue_state_of_eq h fun entries he => needClaim_state h (by
    have hpos := scanTableOf_pos he
    obtain ⟨lo, hi, count, -, -, -, log⟩ := h.engine
    have hlen : 1 ≤ (entries.take 16).length := by rw [List.length_take]; omega
    exact ⟨h.progs, lo, hi, count, hlen, List.length_take_le _ _, hlen, log⟩))

/-- The reload is clamped into 150..4800 (R40). -/
theorem keeps_setScanPeriod : Serve.Keeps State.Stored serveSetScanPeriod := fun _ _ _ _ h =>
  needFull_state h (needSize_state h (needClaim_state h (by
    obtain ⟨-, -, rest⟩ := h.engine
    exact ⟨h.progs, le_max_left _ _, max_le (by decide) (min_le_right _ _), rest⟩)))

theorem keeps_configCue : Serve.Keeps State.Stored serveConfigCue := fun _ _ _ _ h =>
  needFull_state h (needSize_state h (needBelow_state h fun l => needBelow_state h fun _ => needValue_state h fun _ =>
    needValue_state h fun _ => needValue_state h fun _ => needValue_state h fun _ => needClaim_state h (h.configureCue l _)))

theorem keeps_dropCueEntries : Serve.Keeps State.Stored serveDropCueEntries := fun _ _ _ _ h =>
  needFull_state h (needSize_state h (h.dropEntries _))

theorem keeps_resetDevice : Serve.Keeps State.Stored serveResetDevice := fun _ _ _ _ h =>
  needFull_state h (needSize_state h (needClaim_state h (h.of_eq rfl rfl rfl)))

theorem keeps_notice (f : SourceSet → SourceSet → Notice → Notice) : Serve.Keeps State.Stored (serveNotice f) :=
  fun _ _ _ _ h => needSize_state h (needValue_state h fun _ => h.of_eq rfl rfl rfl)

/-- The service of every row of the table of requests. -/
theorem keeps_requestTable : ∀ row ∈ requestTable, Serve.Keeps State.Stored row.2 := by
  simp only [requestTable, List.forall_mem_cons]
  exact ⟨keeps_of_read serveReadProgramme_state, keeps_of_read serveReadProfile_state,
    keeps_of_read serveReadHistogram_state, keeps_of_read serveReadCueLog_state,
    keeps_of_read serveReadDevice_state, keeps_of_read serveReadNotices_state, keeps_claim, keeps_release,
    keeps_setMode, keeps_writeProfile, keeps_copyProfile, keeps_setTrim, keeps_setSchedule, keeps_forceSlot, keeps_setCount,
    keeps_restartSegment, keeps_pause, keeps_resume, keeps_resetProgramme, keeps_setLink, keeps_loadScanTable,
    keeps_setScanPeriod, keeps_configCue, keeps_dropCueEntries, keeps_resetDevice, keeps_notice _, keeps_notice _,
    keeps_notice _, by simp⟩

theorem keeps_code (code : Byte) : Serve.Keeps State.Stored (serveCode code) := by
  unfold serveCode
  cases hf : requestTable.find? (·.1 = code) with
  | none => exact keeps_of_read fun _ _ _ _ => rfl
  | some row => exact keeps_requestTable row (List.mem_of_find?_eq_some hf)

/-! ### The ports -/

theorem takeMessage (h : s.Stored) (port : Port) (code target : Byte) (payload : List Byte) :
    (s.takeMessage port code target payload (serveCode code)).Stored :=
  State.takeMessage_keeps code target payload h (fun _ h => h.of_eq rfl rfl rfl) (fun _ _ h => h.of_eq rfl rfl rfl)
    (keeps_code code)

theorem receiveByte (h : s.Stored) (port : Port) (bytes : List Byte) (b : Byte) : (s.receiveByte port bytes b).Stored := by
  unfold State.receiveByte
  split
  · split <;> exact h.onPort port _
  split
  · split
    · exact h.takeMessage port _ _ _
    · exact h.onPort port _
  · exact h.onPort port _

theorem declareAbsent (h : s.Stored) (port : Port) : (s.declareAbsent port).Stored := by
  rcases s.declareAbsent_cases port with ⟨-, e⟩ | ⟨-, -, -, e⟩ | ⟨-, -, -, e⟩ <;> rw [e]
  · exact h
  · exact h.onPort port _
  · exact h.of_eq (by simp [State.dropClaims]) (by simp [State.dropClaims]) (by simp [State.dropClaims])

/-! ### Every command -/

/-- Every command leaves the stores sound; a request command is the message of its code. -/
theorem exec (h : s.Stored) (c : Instr) : ∃ t, exec c s = .next t ∧ t.Stored := by
  have hif : ∀ {c : Prop} [Decidable c] {t : State}, t.Stored → (if c then t else s).Stored := fun ht => by
    split
    · exact ht
    · exact h
  have hheld : ∀ {c : Prop} [Decidable c] {t : State}, t.Stored → (if c then s else t).Stored := fun ht => by
    split
    · exact h
    · exact ht
  have request : ∀ port code target d, ∃ t,
      Host.Outcome.next (φ := Fault) (ρ := Refusal) (s.takeMessage port code target d (serveCode code)) = .next t ∧ t.Stored :=
    fun port code target d => ⟨_, rfl, h.takeMessage port code target d⟩
  cases c with
  | powerOn straps => exact ⟨_, rfl, resetTo ..⟩
  | pinReset => exact ⟨_, rfl, hheld (resetTo ..)⟩
  | resetEnd => exact ⟨_, rfl, hif (h.of_eq rfl rfl rfl)⟩
  | frameSync =>
    refine ⟨_, rfl, hheld ?_⟩
    split <;> exact h.of_eq rfl rfl rfl
  | inputFrame slots => exact ⟨_, rfl, hif ((h.carryOut.takeFrame s.due_carryOut slots).followFrom s)⟩
  | rampEnd p => exact ⟨_, rfl, hheld (h.onProg (h.progs p).endRamp)⟩
  | subblockCompletion p => exact ⟨_, rfl, hheld ((h.complete p).followFrom s)⟩
  | scanTick => exact ⟨_, rfl, hheld (h.tick.followFrom s)⟩
  | clockLossDeclaration => exact ⟨_, rfl, hif (h.carryOut.loseClock.followFrom s)⟩
  | returnMeasurementStop =>
    refine ⟨_, rfl, ?_⟩
    split
    · exact h.of_eq rfl rfl rfl
    · exact h
  | clockReturnDeclaration =>
    refine ⟨_, rfl, ?_⟩
    split
    · exact h.returnClock.followFrom s
    · exact h
  | cueAssertion l => exact ⟨_, rfl, hif ((h.assertCue l).followFrom s)⟩
  | cueRelease l => exact ⟨_, rfl, hif ((h.releaseCue l).followFrom s)⟩
  | cueLineSample pins => exact ⟨_, rfl, hheld ((h.sampleCues pins).followFrom s)⟩
  | stationAbsence port => exact ⟨_, rfl, h.declareAbsent port⟩
  | interByteTimeout port =>
    refine ⟨_, rfl, ?_⟩
    split
    · exact h.onPort port _
    · exact h
  | messageDiscard port cause =>
    refine ⟨_, rfl, ?_⟩
    split
    · exact hif (h.onPort port _)
    · exact h
  | servingDiscard port =>
    refine ⟨_, rfl, ?_⟩
    split
    · exact h.of_eq rfl rfl rfl
    · exact h
  | responseEnd port =>
    refine ⟨_, rfl, ?_⟩
    split
    · split
      · exact resetTo ..
      · exact h.onPort port _
    · exact h
  | requestedReset =>
    refine ⟨_, rfl, ?_⟩
    split
    · exact resetTo ..
    · exact h
  | byteReceived port b =>
    refine ⟨_, rfl, hheld ?_⟩
    split
    · exact hif (h.onPort port _)
    · exact h.receiveByte port _ b
  | unknownRequest port code target d => exact request port code target d
  | readProgramme port target d => exact request port 0x01 target d
  | readProfile port target d => exact request port 0x02 target d
  | readHistogram port target d => exact request port 0x03 target d
  | readCueLog port target d => exact request port 0x04 target d
  | readDevice port target d => exact request port 0x05 target d
  | readNotices port target d => exact request port 0x06 target d
  | claim port target d => exact request port 0x10 target d
  | release port target d => exact request port 0x11 target d
  | setMode port target d => exact request port 0x20 target d
  | writeProfile port target d => exact request port 0x21 target d
  | copyProfile port target d => exact request port 0x22 target d
  | setTrim port target d => exact request port 0x23 target d
  | setSchedule port target d => exact request port 0x24 target d
  | forceSlot port target d => exact request port 0x25 target d
  | setCount port target d => exact request port 0x26 target d
  | restartSegment port target d => exact request port 0x27 target d
  | pause port target d => exact request port 0x28 target d
  | resume port target d => exact request port 0x29 target d
  | resetProgramme port target d => exact request port 0x2A target d
  | setLink port target d => exact request port 0x2B target d
  | loadScanTable port target d => exact request port 0x30 target d
  | setScanPeriod port target d => exact request port 0x31 target d
  | configCue port target d => exact request port 0x32 target d
  | dropCueEntries port target d => exact request port 0x33 target d
  | resetDevice port target d => exact request port 0x34 target d
  | setNoticeMask port target d => exact request port 0x40 target d
  | setNoticeMode port target d => exact request port 0x41 target d
  | ackNotices port target d => exact request port 0x42 target d

theorem idle (h : s.Stored) : s.idle.Stored := by
  unfold State.idle
  split
  · exact h
  · split <;> exact h.of_eq rfl rfl rfl

end State.Stored

/-- Settles O59: the front command keeps the stores, the scan engine and the cue log sound, and so does an idle cycle. -/
theorem stepKeepsTheStores : Obligations.StepKeepsTheStores := by
  intro s t hp he ht
  have h : s.Stored := ⟨fun p => (s.prog p).storesSound_iff.1 (hp p), he⟩
  suffices hs : t.Stored from ⟨fun p => (t.prog p).storesSound_iff.2 (hs.progs p), hs.engine⟩
  unfold step at ht
  split at ht
  · obtain rfl := Host.Outcome.next.inj ht
    exact h.idle
  · rename_i c rest _
    obtain ⟨u, hu, hs⟩ := State.Stored.exec (s := { s with pending := rest }) (h.of_eq rfl rfl rfl) c
    obtain rfl := Host.Outcome.next.inj (hu.symm.trans ht)
    exact hs

end Sys2Proof.Machine

/-! PROOFS. SUBBLOCK_COMPLETION: the schedule comparator, the change of slot and the admission of the record (R26 to R34, R94, R135,
R140). -/

namespace Sys2Proof.Machine

/-! ### Admission (R17, R33, R34) -/

/-- A record is lost where its programme is not paused and the queue is full (R34). -/
def Programme.losesRecord (P : Programme) : Bool := decide (P.paused = false ∧ 4 ≤ P.queue.length)

/-- A programme with the record `x` discarded for pause, queued or lost. -/
def Programme.takeRecord (P : Programme) (x : SubBlock) : Programme :=
  { P with
    queue := if P.paused = false ∧ P.queue.length < 4 then P.queue ++ [x] else P.queue
    lost := if P.paused = false ∧ 4 ≤ P.queue.length then min 65535 (P.lost + 1) else P.lost }

theorem State.prog_enqueue (s : State) (p : Prog) (x : SubBlock) (q : Prog) :
    (s.enqueue p x).prog q = if q = p then (s.prog q).takeRecord x else s.prog q := by
  by_cases hq : q = p
  · subst hq
    rw [if_pos rfl]
    simp only [State.enqueue, Programme.takeRecord]
    cases hp : (s.prog q).paused with
    | true => simp
    | false =>
      by_cases hl : (s.prog q).queue.length < 4
      · simp [hl]
      · simp [hl, Nat.le_of_not_lt hl, satSucc]
  · rw [if_neg hq]
    simp only [State.enqueue]
    split
    · rfl
    split <;> simp [hq]

theorem State.notice_enqueue (s : State) (p : Prog) (x : SubBlock) (q : Port) : (s.enqueue p x).notice q =
    { s.notice q with
      pending := (s.notice q).pending ||| ((s.notice q).mask &&& Source.subblockLost.bitIf (s.prog p).losesRecord) } := by
  simp only [State.enqueue, Programme.losesRecord]
  cases hp : (s.prog p).paused with
  | true => simp [Source.bitIf]
  | false =>
    by_cases hl : (s.prog p).queue.length < 4
    · simp [hl, Nat.not_le.2 hl, Source.bitIf]
    · simp [hl, Nat.le_of_not_lt hl, Source.bitIf]

/-! ### The comparator (R135) -/

theorem State.onProg_congr {s : State} {p : Prog} {f g : Programme → Programme} (h : f (s.prog p) = g (s.prog p)) :
    s.onProg p f = s.onProg p g := by
  refine State.ext_fields rfl rfl rfl rfl rfl rfl (State.progs_ext fun q => ?_) rfl rfl rfl rfl rfl rfl rfl rfl rfl
  rw [State.prog_onProg, State.prog_onProg]
  split
  · rename_i hq
    rw [hq, h]
  · rfl

theorem State.onProg_onProg (s : State) (p : Prog) (f g : Programme → Programme) :
    (s.onProg p f).onProg p g = s.onProg p fun P => g (f P) := by
  refine State.ext_fields rfl rfl rfl rfl rfl rfl (State.progs_ext fun q => ?_) rfl rfl rfl rfl rfl rfl rfl rfl rfl
  simp only [State.prog_onProg]
  split <;> rfl

/-- Programme `p` with the front end `f`, under the schedule `k`. -/
def State.fresh (s : State) (p : Prog) (f : FrontEnd) (k : Schedule) : State := s.onProg p fun P => { P with front := f, schedule := k }

theorem State.prog_fresh (s : State) (p : Prog) (f : FrontEnd) (k : Schedule) (q : Prog) : (s.fresh p f k).prog q =
    { s.prog q with front := if q = p then f else (s.prog q).front, schedule := if q = p then k else (s.prog q).schedule } := by
  rw [State.fresh, State.prog_onProg]
  split <;> rfl

/-- The front end after a completion (R29, R30). -/
def FrontEnd.completed (f : FrontEnd) : FrontEnd := { f with sumL := 0, sumR := 0, frameCount := 0, counter := f.counter + 1 }

/-- The record of a full sub-block (R31). -/
def FrontEnd.record (f : FrontEnd) : SubBlock := { energy := f.energy, counter := f.counter + 1 }

/-- A completion that is due: the fresh sub-block, the comparator, the record (R29). -/
theorem State.complete_fresh {s : State} {p : Prog} (h : (s.prog p).front.due = true) : s.complete p =
    ((s.fresh p (s.prog p).front.completed (s.prog p).schedule).consultSchedule p ((s.prog p).front.counter + 1)).enqueue p
      (s.prog p).front.record := by
  have hf : (s.onProg p fun P => { P with front := { P.front.discard with counter := (s.prog p).front.counter + 1 } }) =
      s.fresh p (s.prog p).front.completed (s.prog p).schedule := State.onProg_congr rfl
  rw [State.complete_of_due h, hf]
  rfl

section Consult
variable {s : State} {p : Prog} {f : FrontEnd} {k : Schedule} {c : Count32}

theorem State.consultSchedule_unmatched (h : k.enabled = false ∨ c ≠ k.compareA ∧ c ≠ k.compareB) :
    (s.fresh p f k).consultSchedule p c = s.fresh p f k := by
  have hk : ((s.fresh p f k).prog p).schedule = k := by simp [State.prog_fresh]
  simp only [State.consultSchedule, hk]
  rcases h with h | ⟨ha, hb⟩
  · simp [h]
  · simp [ha, hb]

theorem State.consultSchedule_matchA (he : k.enabled = true) (ha : c = k.compareA) :
    (s.fresh p f k).consultSchedule p c = (s.fresh p f { k with compareB := k.compareB + k.increment }).switchSlot p := by
  have hk : ((s.fresh p f k).prog p).schedule = k := by simp [State.prog_fresh]
  simp only [State.consultSchedule, hk, he, ha, Bool.not_true, Bool.false_eq_true, if_false, if_true]
  rw [State.fresh, State.onProg_onProg]
  rfl

theorem State.consultSchedule_matchB (he : k.enabled = true) (ha : c ≠ k.compareA) (hb : c = k.compareB) :
    (s.fresh p f k).consultSchedule p c = (s.fresh p f { k with compareA := k.compareA + k.increment }).switchSlot p := by
  have hk : ((s.fresh p f k).prog p).schedule = k := by simp [State.prog_fresh]
  simp only [State.consultSchedule, hk, he, if_neg ha, if_pos hb, Bool.not_true, Bool.false_eq_true, if_false]
  rw [State.fresh, State.onProg_onProg]
  rfl

end Consult

/-! ### The change of slot on a fresh sub-block (R94, R140) -/

/-- The gains do not read the front end or the schedule. -/
theorem State.GainsSound.fresh {s : State} (h : s.GainsSound) (p : Prog) (f : FrontEnd) (k : Schedule) : (s.fresh p f k).GainsSound := by
  refine ⟨fun q => ?_, fun q r => ?_⟩
  · rw [State.prog_fresh]
    exact h.1 q
  · rw [State.prog_fresh, State.prog_fresh]
    exact h.2 q r

section Switched
variable (s : State) (p : Prog) (i : Slot) (q : Prog)

/-- The gain of `p` limited into the bounds of its slot `i` (R94). -/
def State.gainUnder : Int := max (s.prog p).slots[i].gainMin (min (s.prog p).slots[i].gainMax (s.prog p).gcur)

/-- The gain of programme `q` after a change of the slot of `p`. -/
def State.switchedGain : Int :=
  if (s.prog p).mode = .active ∧ (s.prog q).mode = .active ∧ s.sameGroup p q = true then s.gainUnder p i
  else if (s.prog p).mode = .off ∧ q = p then s.gainUnder p i
  else (s.prog q).gcur

/-- The output stage of programme `q` after a change of the slot of `p`. -/
def State.switchedOut : OutputStage :=
  if (s.prog p).mode = .active ∧ (s.prog q).mode = .active ∧ s.sameGroup p q = true then
    if s.gainUnder p i = (s.prog p).gcur then (s.prog q).out else (s.prog q).out.startRamp (factor (s.gainUnder p i))
  else (s.prog q).out

/-- A change of slot is that of the index, the gain and the output stage. -/
theorem State.switched_eq : s.switched p i q = { s.prog q with
    inService := if q = p then i else (s.prog q).inService
    gcur := s.switchedGain p i q
    out := s.switchedOut p i q } := by
  simp only [State.switched, State.switchedGain, State.switchedOut]
  rw [show (if q = p then { s.prog q with inService := i } else s.prog q) =
    { s.prog q with inService := if q = p then i else (s.prog q).inService } by split <;> rfl]
  by_cases hm : (s.prog p).mode = .active ∧ (s.prog q).mode = .active ∧ s.sameGroup p q = true
  · rw [if_pos hm, if_pos hm, if_pos hm]
    rfl
  · rw [if_neg hm, if_neg hm, if_neg hm]
    by_cases ho : (s.prog p).mode = .off ∧ q = p
    · rw [if_pos ho, if_pos ho]
      rfl
    · rw [if_neg ho, if_neg ho]

theorem State.switched_fresh (f : FrontEnd) (k : Schedule) : (s.fresh p f k).switched p i q = { s.switched p i q with
    front := if q = p then f else (s.prog q).front
    schedule := if q = p then k else (s.prog q).schedule } := by
  simp only [State.switched_eq, State.switchedGain, State.switchedOut, State.gainUnder, State.prog_fresh]
  rfl

end Switched

theorem otherSlot_ne (i : Slot) : otherSlot i ≠ i := by revert i; decide

/-- A change of slot makes of each programme what R94 and R140 say, but for its gain and its output stage where the gains are not sound. -/
theorem State.prog_switchSlot_switched (s : State) (p q : Prog) : (s.switchSlot p).prog q =
    { s.switched p (otherSlot (s.prog p).inService) q with
      gcur := ((s.switchSlot p).prog q).gcur, out := ((s.switchSlot p).prog q).out } := by
  rw [State.switched_eq]
  exact s.prog_switchSlot p q

/-! ### The completion (R29 to R34) -/

section Completion
variable {s : State} {p : Prog}

/-- What a completion of `p` under the new schedule `k` makes of programme `q`, where the comparator leaves `Q` of it. -/
def State.completed (s : State) (p : Prog) (k : Schedule) (q : Prog) (Q : Programme) : Programme :=
  if q = p then { Q with
    front := (s.prog p).front.completed
    schedule := k
    queue := ((s.prog p).takeRecord (s.prog p).front.record).queue
    lost := ((s.prog p).takeRecord (s.prog p).front.record).lost }
  else Q

/-- The fresh sub-block with its record admitted, where no slot changes. -/
theorem State.prog_takeRecord_fresh (k : Schedule) (q : Prog) :
    ((s.fresh p (s.prog p).front.completed k).enqueue p (s.prog p).front.record).prog q = s.completed p k q (s.prog q) := by
  rw [State.prog_enqueue, State.prog_fresh, State.completed]
  by_cases hq : q = p
  · subst hq
    simp only [if_true]
    rfl
  · simp only [if_neg hq]

/-- The fresh sub-block with its record admitted after a change of slot. -/
theorem State.prog_takeRecord_switchSlot (k : Schedule) (q : Prog) :
    let v := (s.fresh p (s.prog p).front.completed k).switchSlot p
    (v.enqueue p (s.prog p).front.record).prog q =
      { s.completed p k q (s.switched p (otherSlot (s.prog p).inService) q) with
        gcur := (v.prog q).gcur, out := (v.prog q).out } := by
  intro v
  have hv : v.prog q = { s.switched p (otherSlot (s.prog p).inService) q with
      front := if q = p then (s.prog p).front.completed else (s.prog q).front
      schedule := if q = p then k else (s.prog q).schedule
      gcur := (v.prog q).gcur, out := (v.prog q).out } := by
    have h := (s.fresh p (s.prog p).front.completed k).prog_switchSlot_switched p q
    rw [State.switched_fresh, State.prog_fresh] at h
    exact h
  generalize (v.prog q).gcur = g at hv ⊢
  generalize (v.prog q).out = o at hv ⊢
  rw [State.prog_enqueue, hv, State.completed, State.switched_eq]
  by_cases hq : q = p
  · subst hq
    simp only [if_true]
    rfl
  · simp only [if_neg hq]

/-- Where the gains are sound the change of slot is that of R94 and R140. -/
theorem State.switchSlot_fresh_sound (h : s.GainsSound) (f : FrontEnd) (k : Schedule) (q : Prog) :
    let v := (s.fresh p f k).switchSlot p
    (v.prog q).gcur = s.switchedGain p (otherSlot (s.prog p).inService) q ∧
    (v.prog q).out = s.switchedOut p (otherSlot (s.prog p).inService) q := by
  intro v
  have hv := State.switchSlot_switched (h.fresh p f k) p q
  rw [State.switched_fresh, State.switched_eq, State.prog_fresh] at hv
  exact ⟨congrArg Programme.gcur hv, congrArg Programme.out hv⟩

theorem exec_subblockCompletion (h : s.held = false) : exec (.subblockCompletion p) s = .next ((s.complete p).followFrom s) :=
  congrArg Host.Outcome.next (if_neg (by simp [h]))

/-- A completion that toggles the slot, under the new schedule `k` (R135, R140). -/
theorem State.complete_toggles {k : Schedule} (hc : s.complete p =
    ((s.fresh p (s.prog p).front.completed k).switchSlot p).enqueue p (s.prog p).front.record) :
    ∃ i : Slot, i ≠ (s.prog p).inService ∧
      (∀ q, ((s.complete p).followFrom s).prog q = { s.completed p k q (s.switched p i q) with
        gcur := (((s.complete p).followFrom s).prog q).gcur, out := (((s.complete p).followFrom s).prog q).out }) ∧
      (s.GainsSound → ∀ q, ((s.complete p).followFrom s).prog q = s.completed p k q (s.switched p i q)) ∧
      s.NoticesFollow ((s.complete p).followFrom s)
        (Source.slotSwitched.bit ||| Source.subblockLost.bitIf (s.prog p).losesRecord) := by
  have hq := fun q => State.prog_takeRecord_switchSlot (s := s) (p := p) k q
  refine ⟨otherSlot (s.prog p).inService, otherSlot_ne _, fun q => ?_, fun hg q => ?_, State.noticesFollow_followFrom fun q => ?_⟩
  · rw [State.prog_followFrom, hc, hq]
  · obtain ⟨hgain, hout⟩ := State.switchSlot_fresh_sound hg (p := p) (s.prog p).front.completed k q
    rw [State.prog_followFrom, hc, hq, hgain, hout]
    rw [State.switched_eq]
    simp only [State.completed]
    split <;> rfl
  · have hl : (((s.fresh p (s.prog p).front.completed k).switchSlot p).prog p).losesRecord = (s.prog p).losesRecord := by
      rw [State.prog_switchSlot, State.prog_fresh]
      rfl
    rw [hc, State.notice_enqueue, State.notice_switchSlot, hl]
    simp only [State.fresh, State.notice_onProg, BitVec.and_or_distrib_left, BitVec.or_assoc]

end Completion

/-- Settles O17: the comparator's three outcomes, each on the fresh sub-block with its record admitted. -/
theorem scheduleMatchTogglesTheSlot : Obligations.ScheduleMatchTogglesTheSlot := by
  intro s p P k c hh hd
  have hdue : (s.prog p).front.due = true := decide_eq_true hd
  have hc := State.complete_fresh hdue
  refine ⟨_, (s.prog p).front.energy, exec_subblockCompletion hh, ?_, FrontEnd.energy_eq _, fun he ha => ?_, fun he ha hb => ?_,
    fun hn => ?_⟩
  · rw [s.complete_frame p]
    rfl
  · exact State.complete_toggles (hc.trans (by rw [State.consultSchedule_matchA he ha]))
  · exact State.complete_toggles (hc.trans (by rw [State.consultSchedule_matchB he ha hb]))
  · rw [State.consultSchedule_unmatched hn] at hc
    refine ⟨fun q => ?_, State.noticesFollow_followFrom fun q => ?_⟩
    · rw [State.prog_followFrom, hc, State.prog_takeRecord_fresh]
      rfl
    · rw [hc, State.notice_enqueue, State.prog_fresh]
      rfl

/-- Settles O16, as the completion without a match, by the record's three fates. -/
theorem completionForms : Obligations.CompletionForms := by
  intro s p P c hh hd hn
  obtain ⟨t, e, hx, ht, he, -, -, hrest⟩ := scheduleMatchTogglesTheSlot s p hh hd
  obtain ⟨hprog, hnotices⟩ := hrest hn
  have hP := (hprog p).trans (if_pos rfl)
  have hroom : (s.prog p).queue.length < 4 ↔ ¬ 4 ≤ (s.prog p).queue.length := by omega
  refine ⟨t, e, hx, ht, fun q hq => (hprog q).trans (if_neg hq), he, fun hp => ?_, fun hp hl => ?_, fun hp hl => ?_⟩
  · have hpause : (s.prog p).paused = true := hp
    simp only [hpause, Bool.true_eq_false, false_and, if_false, decide_false, Source.bitIf, Bool.false_eq_true] at hP hnotices
    exact ⟨hP, hnotices⟩
  · have hpause : (s.prog p).paused = false := hp
    simp only [hpause, hroom, hroom.1 hl, not_false_eq_true, and_true, and_false, if_true, if_false, decide_false, Source.bitIf,
      Bool.false_eq_true] at hP hnotices
    exact ⟨hP, hnotices⟩
  · have hpause : (s.prog p).paused = false := hp
    have hfull : 4 ≤ (s.prog p).queue.length := hl
    simp only [hpause, hroom, hfull, not_true_eq_false, and_true, and_false, if_true, if_false, decide_true, Source.bitIf] at hP hnotices
    exact ⟨hP, hnotices⟩

end Sys2Proof.Machine

/-! PROOFS. The level function against the real logarithm (R28): the search by bits, the comparison of integer powers, and the rounding. -/

namespace Sys2Proof.Machine

/-- The search by bits finds the last number of its range that passes, where what passes is closed downward. -/
theorem greatest_spec {P : Nat → Bool} (hP : ∀ x y, x ≤ y → P y = true → P x = true) (bits x : Nat) (hx : P x = true) :
    P (greatest P bits x) = true ∧ ∀ y, y < x + 2 ^ bits → P y = true → y ≤ greatest P bits x := by
  induction bits generalizing x with
  | zero => exact ⟨hx, fun y hy _ => Nat.le_of_lt_succ (by simpa [greatest] using hy)⟩
  | succ bits ih =>
    rw [greatest]
    have hpow : x + 2 ^ (bits + 1) = x + 2 ^ bits + 2 ^ bits := by ring
    split
    · rename_i hmid
      rw [hpow]
      exact ih _ hmid
    · rename_i hmid
      refine ⟨(ih x hx).1, fun y _ hy => (ih x hx).2 y ?_ hy⟩
      by_contra hge
      exact hmid (hP _ y (Nat.le_of_not_lt hge) hy)

theorem timesPow10Le_iff (b a : Nat) (e : Int) : timesPow10Le b e a = true ↔ (b : ℝ) * 10 ^ e ≤ a := by
  cases e with
  | ofNat k =>
    simp only [timesPow10Le, decide_eq_true_eq, Int.ofNat_eq_natCast, zpow_natCast]
    exact_mod_cast Iff.rfl
  | negSucc k =>
    simp only [timesPow10Le, decide_eq_true_eq, zpow_negSucc]
    rw [← div_eq_mul_inv, div_le_iff₀ (by positivity)]
    exact_mod_cast Iff.rfl

/-- An integer lies at or below a decimal logarithm where its power of ten does. -/
theorem intCast_le_logb_iff {x : ℝ} (hx : 0 < x) (e : Int) : (e : ℝ) ≤ Real.logb 10 x ↔ (10 : ℝ) ^ e ≤ x := by
  rw [Real.le_logb_iff_rpow_le (by norm_num) hx, Real.rpow_intCast]

/-- The comparison of integer powers that `floorLog2000` makes is one of logarithms. -/
theorem timesPow10Le_pow_iff {a b : Nat} (ha : 1 ≤ a) (hb : 1 ≤ b) (n : Nat) (e : Int) :
    timesPow10Le (b ^ n) e (a ^ n) = true ↔ (e : ℝ) ≤ n * Real.logb 10 (a / b) := by
  have ha' : (0 : ℝ) < a := by exact_mod_cast ha
  have hb' : (0 : ℝ) < b := by exact_mod_cast hb
  rw [timesPow10Le_iff, ← Real.logb_pow, intCast_le_logb_iff (by positivity), div_pow, le_div_iff₀ (by positivity), mul_comm]
  push_cast
  rfl

/-- `floorLog2000` is the integer part of `2000 * log10 (a / b)` within the range of its search. -/
theorem floorLog2000_eq {a b : Nat} (ha : 1 ≤ a) (hb : 1 ≤ b) (hlo : -32768 ≤ 2000 * Real.logb 10 (a / b))
    (hhi : 2000 * Real.logb 10 (a / b) < 32768) : floorLog2000 a b = ⌊2000 * Real.logb 10 (a / b)⌋ := by
  have hiff : ∀ k : Nat, timesPow10Le (b ^ 2000) ((k : Int) - logOffset) (a ^ 2000) = true ↔
      (k : ℝ) - 32768 ≤ 2000 * Real.logb 10 (a / b) := fun k => by
    rw [timesPow10Le_pow_iff ha hb]
    simp [logOffset]
  obtain ⟨hpass, hlast⟩ := greatest_spec (P := fun k => timesPow10Le (b ^ 2000) ((k : Int) - logOffset) (a ^ 2000))
    (fun x y hxy hy => by
      have hcast : (x : ℝ) ≤ y := by exact_mod_cast hxy
      exact (hiff x).2 (by linarith [(hiff y).1 hy])) 16 0 ((hiff 0).2 (by simpa using hlo))
  unfold floorLog2000
  generalize greatest (fun k => timesPow10Le (b ^ 2000) ((k : Int) - logOffset) (a ^ 2000)) 16 0 = g at hpass hlast ⊢
  symm
  rw [Int.floor_eq_iff]
  simp only [logOffset]
  push_cast
  refine ⟨(hiff g).1 hpass, ?_⟩
  by_contra hge
  have hnext : (g : ℝ) + 1 - 32768 ≤ 2000 * Real.logb 10 (a / b) := by linarith
  have hg : (g : ℝ) + 1 < 65536 := by linarith
  have hg' : g + 1 < 65536 := by exact_mod_cast hg
  have := hlast (g + 1) hg' ((hiff (g + 1)).2 (by push_cast; exact hnext))
  omega

/-- Every energy but 0 lies within sixteen powers of ten of full scale. -/
theorem logb_energy_bounds {e : Nat} (h1 : 1 ≤ e) (h2 : e ≤ 2 ^ 31 - 1) :
    -16 ≤ Real.logb 10 (e / 2 ^ 30) ∧ Real.logb 10 (e / 2 ^ 30) < 16 := by
  have he1 : (1 : ℝ) ≤ e := by exact_mod_cast h1
  have he2 : (e : ℝ) ≤ 2 ^ 31 := by exact_mod_cast h2.trans (Nat.sub_le _ _)
  have hpos : (0 : ℝ) < e / 2 ^ 30 := by positivity
  have hlo : ((-16 : Int) : ℝ) ≤ Real.logb 10 (e / 2 ^ 30) := by
    rw [intCast_le_logb_iff hpos]
    norm_num
    linarith
  have hhi : ¬ ((16 : Int) : ℝ) ≤ Real.logb 10 (e / 2 ^ 30) := by
    rw [intCast_le_logb_iff hpos]
    norm_num
    linarith
  push_cast at hlo hhi
  exact ⟨hlo, not_le.1 hhi⟩

/-- The level of an energy that is not 0, from the integer part of the doubled logarithm. -/
theorem level_eq_floor {e : Nat} (h1 : 1 ≤ e) (h2 : e ≤ 2 ^ 31 - 1) :
    level e = (⌊2 * (1000 * Real.logb 10 (e / 2 ^ 30))⌋ + 1) / 2 := by
  obtain ⟨hlo, hhi⟩ := logb_energy_bounds h1 h2
  have hscale : ((fullScale : Nat) : ℝ) = 2 ^ 30 := by norm_num [fullScale]
  rw [level, if_neg (by omega), floorLog2000_eq h1 (by decide)] <;> rw [hscale]
  · congr 3
    ring
  all_goals linarith

/-- Halving the integer part of the double rounds to the nearest integer, halves toward +∞. -/
theorem floor_double_rounds (x : ℝ) :
    (((⌊2 * x⌋ + 1) / 2 : Int) : ℝ) - 1 / 2 ≤ x ∧ x < (((⌊2 * x⌋ + 1) / 2 : Int) : ℝ) + 1 / 2 := by
  have hle := Int.floor_le (2 * x)
  have hlt := Int.lt_floor_add_one (2 * x)
  generalize ⌊2 * x⌋ = n at hle hlt ⊢
  have hhi : (2 * ((n + 1) / 2 : Int) : ℝ) ≤ n + 1 := by exact_mod_cast (by omega : 2 * ((n + 1) / 2) ≤ n + 1)
  have hlo : (n : ℝ) ≤ 2 * ((n + 1) / 2 : Int) := by exact_mod_cast (by omega : n ≤ 2 * ((n + 1) / 2))
  constructor <;> linarith

/-- The level of an energy that is not 0 is the integer nearest to its logarithm, halves toward +∞ (R28). -/
theorem level_rounds {e : Nat} (h1 : 1 ≤ e) (h2 : e ≤ 2 ^ 31 - 1) :
    (level e : ℝ) - 1 / 2 ≤ 1000 * Real.logb 10 (e / 2 ^ 30) ∧ 1000 * Real.logb 10 (e / 2 ^ 30) < (level e : ℝ) + 1 / 2 := by
  rw [level_eq_floor h1 h2]
  exact floor_double_rounds _

theorem level_zero : level 0 = -12000 := by rw [level, if_pos rfl]; rfl

theorem level_one : level 1 = -9031 := by decide +kernel

theorem level_maxEnergy : level (2 ^ 31 - 1) = 301 := by decide +kernel

/-- Among energies that are not 0 the level does not decrease. -/
theorem level_mono_of_pos {a b : Nat} (h1 : 1 ≤ a) (hab : a ≤ b) (hb : b ≤ 2 ^ 31 - 1) : level a ≤ level b := by
  have hlog : Real.logb 10 ((a : ℝ) / 2 ^ 30) ≤ Real.logb 10 ((b : ℝ) / 2 ^ 30) := by
    have ha : (0 : ℝ) < a := by exact_mod_cast h1
    have hcast : (a : ℝ) ≤ b := by exact_mod_cast hab
    exact Real.logb_le_logb_of_le (by norm_num) (by positivity) (by gcongr)
  have hlt : (level a : ℝ) < level b + 1 := by
    linarith [(level_rounds h1 (hab.trans hb)).1, (level_rounds (h1.trans hab) hb).2]
  exact Int.lt_add_one_iff.1 (by exact_mod_cast hlt)

/-- Settles O19: the rounding, the ends, and the order, where silence lies below every other level. -/
theorem levelRoundsTheLogarithm : Obligations.LevelRoundsTheLogarithm := by
  refine ⟨fun e h1 h2 => level_rounds h1 h2, level_zero, level_one, level_maxEnergy, fun a b hab hb => ?_⟩
  rcases Nat.eq_zero_or_pos a with rfl | ha
  · rcases Nat.eq_zero_or_pos b with rfl | hb0
    · rfl
    · have := level_mono_of_pos le_rfl hb0 hb
      rw [level_one] at this
      rw [level_zero]
      omega
  · exact level_mono_of_pos ha hab hb

end Sys2Proof.Machine

/-! PROOFS. The requests on the scan engine and the cue log: LOAD_SCAN_TABLE, SET_SCAN_PERIOD and DROP_CUE_ENTRIES (R40, R44, R155,
R185). -/

namespace Sys2Proof.Machine

/-! ### Scan-table payloads (R44, R180, R185) -/

/-- An entry is read back as the byte that gave it. -/
theorem scanEntryByte_of_scanEntryOf {b : Byte} {e : ScanEntry} (h : scanEntryOf b = some e) : scanEntryByte e = b := by
  unfold scanEntryOf at h
  split at h
  · rename_i hb
    obtain rfl := Option.some.inj h
    exact hb.symm
  · split at h
    · obtain rfl := Option.some.inj h
      exact BitVec.eq_of_toNat_eq (by simp [scanEntryByte])
    · cases h

theorem scanEntryOf_isSome (b : Byte) : (scanEntryOf b).isSome = (decide (b.toNat < 8) || decide (b = 0xFF)) := by
  unfold scanEntryOf
  by_cases hb : b = 0xFF
  · simp [hb]
  · by_cases hp : b.toNat < 8
    · rw [if_neg hb, dif_pos hp, decide_eq_true hp]
      rfl
    · rw [if_neg hb, dif_neg hp, decide_eq_false hp, decide_eq_false hb]
      rfl

theorem scanEntriesOf_nil : scanEntriesOf [] = some [] := rfl

theorem scanEntriesOf_cons (b : Byte) (bs : List Byte) :
    scanEntriesOf (b :: bs) = (scanEntryOf b).bind fun e => (scanEntriesOf bs).map (e :: ·) := by
  simp only [scanEntriesOf, List.mapM_cons, Option.map_eq_bind]
  rfl

theorem map_scanEntryByte_of_scanEntriesOf {bytes : List Byte} {entries : List ScanEntry}
    (h : scanEntriesOf bytes = some entries) : entries.map scanEntryByte = bytes := by
  induction bytes generalizing entries with
  | nil =>
    obtain rfl := Option.some.inj h
    rfl
  | cons b bs ih =>
    rw [scanEntriesOf_cons] at h
    obtain ⟨e, he, h⟩ := Option.bind_eq_some_iff.1 h
    obtain ⟨es, hes, rfl⟩ := Option.map_eq_some_iff.1 h
    rw [List.map_cons, scanEntryByte_of_scanEntryOf he, ih hes]

theorem scanEntriesOf_isSome (bytes : List Byte) :
    (scanEntriesOf bytes).isSome = bytes.all fun b => decide (b.toNat < 8) || decide (b = 0xFF) := by
  induction bytes with
  | nil => rfl
  | cons b bs ih =>
    rw [scanEntriesOf_cons, List.all_cons, ← ih, ← scanEntryOf_isSome]
    cases scanEntryOf b <;> simp

theorem scanPayloadOk_cons (n : Byte) (bytes : List Byte) : scanPayloadOk (n :: bytes) = true ↔
    bytes.length + 1 ≤ 48 ∧ 1 ≤ bytes.length ∧ n.toNat = bytes.length ∧ (scanEntriesOf bytes).isSome = true := by
  simp only [scanPayloadOk, scanEntriesOf_isSome, Bool.and_eq_true, decide_eq_true_eq, byteAt_cons_zero, List.length_cons,
    List.tail_cons, Nat.add_left_inj, Nat.reduceLeDiff, and_assoc]

theorem scanTableOf_cons_isSome (n : Byte) (bytes : List Byte) : (scanTableOf (n :: bytes)).isSome = true ↔
    1 ≤ bytes.length ∧ n.toNat = bytes.length ∧ (scanEntriesOf bytes).isSome = true := by
  have hn : n = 0 ↔ n.toNat = 0 := ⟨fun hz => hz ▸ rfl, fun hz => BitVec.eq_of_toNat_eq hz⟩
  simp only [scanTableOf, hn]
  by_cases hbad : n.toNat = 0 ∨ n.toNat ≠ bytes.length
  · rw [if_pos hbad]
    simp only [Option.isSome_none, Bool.false_eq_true, false_iff]
    omega
  · rw [if_neg hbad]
    have hcount : 1 ≤ bytes.length ∧ n.toNat = bytes.length := by omega
    simp [hcount]

/-- The payloads that LOAD_SCAN_TABLE accepts, among those that a message can carry. -/
theorem scanTableOf_isSome {d : List Byte} (h : d.length ≤ 48) : (scanTableOf d).isSome = scanPayloadOk d := by
  cases d with
  | nil => rfl
  | cons n bytes =>
    rw [Bool.eq_iff_iff, scanTableOf_cons_isSome, scanPayloadOk_cons]
    exact (and_iff_right h).symm

/-- The entries of an accepted payload are its bytes after the count. -/
theorem map_scanEntryByte_of_scanTableOf {d : List Byte} {entries : List ScanEntry} (h : scanTableOf d = some entries) :
    entries.map scanEntryByte = d.tail := by
  cases d with
  | nil => cases h
  | cons n bytes =>
    simp only [scanTableOf] at h
    split at h
    · cases h
    · exact map_scanEntryByte_of_scanEntriesOf h

/-! ### The three requests, served -/

section Served
variable {s : State} {port : Port}

theorem serveLoadScanTable_ready {payload : List Byte} {entries : List ScanEntry} (target : Byte)
    (h : s.ReadyHolder port deviceRecord) (he : scanTableOf payload = some entries) :
    serveLoadScanTable port target payload (s.hear port) =
      doneClamped { s.hear port with scan := { s.scan with table := entries.take 16, next := 0 } }
        (decide (16 < entries.length)) [] := by
  rw [serveLoadScanTable, needFull_full (by rw [State.access_hear]; exact h.1.2), needValue_some he,
    needClaim_held (by rw [State.holder_hear]; exact h.2)]
  rfl

theorem serveSetScanPeriod_ready (target lo hi : Byte) (h : s.ReadyHolder port deviceRecord) :
    serveSetScanPeriod port target [lo, hi] (s.hear port) =
      doneClamped { s.hear port with scan := { s.scan with reload := max 150 (min (hi ++ lo : BitVec 16).toNat 4800) } }
        (max 150 (min (hi ++ lo : BitVec 16).toNat 4800) != (hi ++ lo : BitVec 16).toNat) [] := by
  rw [serveSetScanPeriod, needFull_full (by rw [State.access_hear]; exact h.1.2), needSize_eq (n := 2) rfl,
    needClaim_held (by rw [State.holder_hear]; exact h.2)]
  rfl

theorem serveDropCueEntries_ready (target n : Byte) (h : s.ReadyFull port) :
    serveDropCueEntries port target [n] (s.hear port) =
      report { s.hear port with cueLog := s.cueLog.drop (min n.toNat s.cueLog.length) }
        [count8 (min n.toNat s.cueLog.length), count8 (s.cueLog.length - min n.toNat s.cueLog.length)] := by
  rw [serveDropCueEntries, needFull_full (by rw [State.access_hear]; exact h.2), needSize_eq (n := 1) rfl]
  rfl

end Served

/-! ### What they leave -/

/-- What a request leaves whose effect is neither on the ports nor on the notice sets. -/
theorem State.takeMessage_quiet {s u : State} {port : Port} (code target : Byte) {payload : List Byte} {serve : Serve}
    {r : Result} {bytes : List Byte} (h : s.Ready port) (hp : payload.length ≤ 48)
    (hs : serve port target payload (s.hear port) = { state := u, result := r, payload := bytes })
    (hports : u.ports = (s.hear port).ports) (hnotices : u.notices = (s.hear port).notices) :
    ∃ t, s.takeMessage port code target payload serve = t ∧ s.Answers t port code target r bytes 0 ∧
      t = { u with ports := t.ports, notices := t.notices } ∧ t.conditions = u.conditions :=
  State.takeMessage_answers code target 0 h hp hs hports fun q => by
    have hq : u.notice q = (s.hear port).notice q := by simp only [State.notice, hnotices]
    rw [hq]
    simp only [BitVec.ofNat_eq_ofNat, BitVec.and_zero, BitVec.or_zero]

/-- CUE_BACKLOG reads true exactly while the log holds four entries or more (R190). -/
theorem State.conditions_cueBacklog (s : State) :
    s.conditions &&& Source.cueBacklog.bit = Source.cueBacklog.bit ↔ 4 ≤ s.cueLog.length := by
  rw [Source.bit, BitVec.and_twoPow, s.conditions_getLsbD]
  by_cases h : 4 ≤ s.cueLog.length
  · simp [Source.num, h]
  · simp [Source.num, h, BitVec.twoPow]

/-- A value is clamped exactly where it lies outside the range of R40. -/
theorem scanPeriod_clamped (v : Nat) : (max 150 (min v 4800) != v) = !decide (150 ≤ v ∧ v ≤ 4800) := by
  rw [Bool.eq_iff_iff]
  simp only [bne_iff_ne, Bool.not_eq_true', decide_eq_false_iff_not]
  omega

/-- Settles O47: each request is served by its form, and its answer leaves the state of its effect. -/
theorem scanAndLogRequests : Obligations.ScanAndLogRequests := by
  refine ⟨fun s port target payload h hok => ?_, fun s port target lo hi h => ?_, fun s port target n h => ?_⟩
  · have hlen : payload.length ≤ 48 := by
      simp only [scanPayloadOk, Bool.and_eq_true, decide_eq_true_eq] at hok
      exact hok.1.1.1
    obtain ⟨entries, he⟩ := Option.isSome_iff_exists.1 ((scanTableOf_isSome hlen).trans hok)
    have hbytes := map_scanEntryByte_of_scanTableOf he
    have hcount : entries.length = payload.length - 1 := by rw [← List.length_map scanEntryByte, hbytes, List.length_tail]
    obtain ⟨t, ht, ha, hte, -⟩ := State.takeMessage_quiet 0x30 target h.1.1 hlen
      (serveLoadScanTable_ready target h he) rfl rfl
    refine ⟨t, congrArg Host.Outcome.next ht, ?_, ?_, ?_, ?_, ?_, ?_⟩
    · have hr : (if decide (16 < entries.length) then Result.clamped else .ok) = if payload.length ≤ 17 then .ok else .clamped := by
        by_cases hl : payload.length ≤ 17
        · simp [hl, show ¬ 16 < entries.length by omega]
        · simp [hl, show 16 < entries.length by omega]
      exact hr ▸ ha
    all_goals rw [hte]
    · rfl
    · show (entries.take 16).map scanEntryByte = _
      rw [List.map_take, hbytes]
  · obtain ⟨t, ht, ha, hte, -⟩ := State.takeMessage_quiet 0x31 target h.1.1 (by simp)
      (serveSetScanPeriod_ready target lo hi h) rfl rfl
    refine ⟨t, congrArg Host.Outcome.next ht, ?_, ?_⟩
    · rw [scanPeriod_clamped] at ha
      simpa only [Bool.not_eq_true', decide_eq_false_iff_not, ite_not] using ha
    · rw [hte, Nat.min_comm]
      rfl
  · obtain ⟨t, ht, ha, hte, hc⟩ := State.takeMessage_quiet 0x33 target h.1 (by simp)
      (serveDropCueEntries_ready target n h) rfl rfl
    refine ⟨t, congrArg Host.Outcome.next ht, ha, ?_, ?_⟩
    · rw [hte]
      rfl
    · rw [State.conditions_cueBacklog, hte]
      show 4 ≤ (s.cueLog.drop _).length ↔ _
      rw [List.length_drop]

end Sys2Proof.Machine

/-! PROOFS. SCAN_TICK: what a visit makes of the records it consumes, the run of the gain law that follows, and the visits that are
empty (R39, R46 to R51, R60, R67, R78). -/

namespace Sys2Proof.Machine

/-! ### A push into a ring (R49, R50) -/

theorem Ring.push_cells (cap e : Nat) (r : Ring) :
    (r.push cap e).cells = (if r.cells.length < cap then r.cells else r.cells.tail) ++ [e] := by
  unfold Ring.push
  split <;> rfl

/-- A sum that is exact stays exact. -/
theorem Ring.push_sum {r : Ring} (cap e : Nat) (h : r.sum = r.cells.sum) : (r.push cap e).sum = (r.push cap e).cells.sum := by
  unfold Ring.push
  split
  · simp [h]
  · cases hc : r.cells <;> simp [h, hc]

/-! ### Energies pushed one after the other (R48 to R51, R60, R67) -/

/-- The means of the full momentary rings that the energies of `es` leave one by one, which are the blocks they enter (R51, R60). -/
def Ring.blocks (r : Ring) (es : List Nat) : List Nat := es.inits.tail.filterMap fun es => (es.foldl (Ring.push 4) r).mean 4

theorem Ring.blocks_append (r : Ring) (es : List Nat) (e : Nat) :
    r.blocks (es ++ [e]) = r.blocks es ++ (((es.foldl (Ring.push 4) r).push 4 e).mean 4).toList := by
  have hi : (es ++ [e]).inits.tail = es.inits.tail ++ [es ++ [e]] := by
    rw [List.inits_append, List.tail_append_of_ne_nil (by cases es <;> simp)]
    rfl
  rw [Ring.blocks, hi, List.filterMap_append]
  cases hm : ((es.foldl (Ring.push 4) r).push 4 e).mean 4 <;> simp [Ring.blocks, hm]

/-- Programme `P` once the energies of `es` have passed through both rings, the histogram and the readings. -/
def Programme.afterEnergies (P : Programme) (es : List Nat) : Programme :=
  let h := ((P.momentary.blocks es).map level).foldl Histogram.enter P.histogram
  { P with
    momentary := es.foldl (Ring.push 4) P.momentary
    shortTerm := es.foldl (Ring.push 30) P.shortTerm
    readingM := if es = [] then P.readingM else ((es.foldl (Ring.push 4) P.momentary).mean 4).map level
    readingS := if es = [] then P.readingS else ((es.foldl (Ring.push 30) P.shortTerm).mean 30).map level
    histogram := h
    readingI := if ∃ b ∈ P.momentary.blocks es, -7000 ≤ level b then h.integrated else P.readingI }

/-- A push that leaves the momentary ring short of full enters no block. -/
theorem Programme.pushEnergy_short {P : Programme} {e : Nat} (h : (P.momentary.push 4 e).mean 4 = none) : P.pushEnergy e =
    { P with momentary := P.momentary.push 4 e, shortTerm := P.shortTerm.push 30 e, readingM := none,
             readingS := ((P.shortTerm.push 30 e).mean 30).map level } := by
  simp only [Programme.pushEnergy, momentaryCap, shortTermCap, h]
  rfl

/-- A push that leaves the momentary ring full enters its mean (R60, R67). -/
theorem Programme.pushEnergy_full {P : Programme} {e em : Nat} (h : (P.momentary.push 4 e).mean 4 = some em) : P.pushEnergy e =
    { P with momentary := P.momentary.push 4 e, shortTerm := P.shortTerm.push 30 e, readingM := some (level em),
             readingS := ((P.shortTerm.push 30 e).mean 30).map level, histogram := P.histogram.enter (level em),
             readingI := if level em < gateLevel then P.readingI else (P.histogram.enter (level em)).integrated } := by
  simp only [Programme.pushEnergy, momentaryCap, shortTermCap, h]
  rfl

/-- A block below the gate leaves the bins, and so the integrated reading (R60). -/
theorem Histogram.integrated_enter_below {lm : Int} (h : Histogram) (hl : lm < gateLevel) :
    (h.enter lm).integrated = h.integrated := by
  rw [h.enter_below hl]
  rfl

theorem Programme.foldl_pushEnergy (P : Programme) (es : List Nat) :
    es.foldl (fun Q e => Q.pushEnergy e) P = P.afterEnergies es := by
  induction es using List.reverseRecOn with
  | nil => simp [Programme.afterEnergies, Ring.blocks]
  | append_singleton es e ih =>
    rw [List.foldl_append, List.foldl_cons, List.foldl_nil, ih]
    have hne : es ++ [e] ≠ [] := by simp
    cases hm : ((es.foldl (Ring.push 4) P.momentary).push 4 e).mean 4 with
    | none =>
      have hb : P.momentary.blocks (es ++ [e]) = P.momentary.blocks es := by rw [Ring.blocks_append, hm]; simp
      rw [Programme.pushEnergy_short hm]
      simp only [Programme.afterEnergies, hb, if_neg hne, List.foldl_append, List.foldl_cons, List.foldl_nil, hm]
      rfl
    | some em =>
      have hb : P.momentary.blocks (es ++ [e]) = P.momentary.blocks es ++ [em] := by rw [Ring.blocks_append, hm]; rfl
      rw [Programme.pushEnergy_full hm]
      simp only [Programme.afterEnergies, hb, if_neg hne, List.foldl_append, List.foldl_cons, List.foldl_nil, List.map_append,
        List.map_cons, List.map_nil, hm, Option.map_some, Programme.mk.injEq, true_and, and_true]
      by_cases hl : level em < gateLevel
      · have : ¬ -7000 ≤ level em := not_le.2 hl
        simp only [if_pos hl, Histogram.integrated_enter_below _ hl, List.mem_append, List.mem_singleton, or_and_right, exists_or,
          exists_eq_left, this, or_false]
      · have : ∃ b ∈ P.momentary.blocks es ++ [em], -7000 ≤ level b := ⟨em, by simp, not_lt.1 hl⟩
        rw [if_neg hl, if_pos this]

/-! ### The records of one visit (R48) -/

theorem Programme.pushEnergy_withQueue (P : Programme) (e : Nat) (q : List SubBlock) :
    { P.pushEnergy e with queue := q } = { P with queue := q : Programme }.pushEnergy e := by
  cases h : (P.momentary.push 4 e).mean 4 with
  | none => rw [Programme.pushEnergy_short h, Programme.pushEnergy_short (P := { P with queue := q }) h]
  | some em => rw [Programme.pushEnergy_full h, Programme.pushEnergy_full (P := { P with queue := q }) h]

/-- The energies of the records that a visit consumes, oldest first. -/
def Programme.eaten (P : Programme) : List Nat := (P.queue.take 2).map (·.energy)

theorem Programme.consume_nil {P : Programme} (h : P.queue = []) : P.consume = P := by simp only [Programme.consume, h]

theorem Programme.consume_cons {P : Programme} {x : SubBlock} {rest : List SubBlock} (h : P.queue = x :: rest) :
    P.consume = { P with queue := rest }.pushEnergy x.energy := by simp only [Programme.consume, h]

/-- A visit consumes up to two records, oldest first (R48). -/
theorem Programme.consumeVisit_eq (P : Programme) : P.consumeVisit = { P with queue := P.queue.drop 2 }.afterEnergies P.eaten := by
  rw [← Programme.foldl_pushEnergy, Programme.eaten, Programme.consumeVisit]
  match hq : P.queue with
  | [] =>
    rw [Programme.consume_nil hq, Programme.consume_nil hq]
    exact congrArg (fun q => { P with queue := q : Programme }) hq
  | [x] =>
    rw [Programme.consume_cons hq, Programme.consume_nil (Programme.pushEnergy_queue _ _)]
    rfl
  | x :: y :: rest =>
    rw [Programme.consume_cons hq, Programme.consume_cons (Programme.pushEnergy_queue _ _), Programme.pushEnergy_withQueue]
    rfl

/-- What a visit that is not empty makes of its programme before the run of the gain law (R48 to R51, R60, R67). -/
theorem Programme.consumeVisit_of_queue {P : Programme} (h : P.queue ≠ []) : P.consumeVisit =
    let hist := ((P.momentary.blocks P.eaten).map level).foldl Histogram.enter P.histogram
    { P with
      queue := P.queue.drop 2
      momentary := P.eaten.foldl (Ring.push 4) P.momentary
      shortTerm := P.eaten.foldl (Ring.push 30) P.shortTerm
      readingM := ((P.eaten.foldl (Ring.push 4) P.momentary).mean 4).map level
      readingS := ((P.eaten.foldl (Ring.push 30) P.shortTerm).mean 30).map level
      histogram := hist
      readingI := if ∃ b ∈ P.momentary.blocks P.eaten, -7000 ≤ level b then hist.integrated else P.readingI } := by
  have he : P.eaten ≠ [] := by simpa [Programme.eaten] using h
  rw [Programme.consumeVisit_eq, Programme.afterEnergies, if_neg he, if_neg he]

/-! ### The run of the gain law and the visit (R47, R48, R78) -/

/-- A step moves gains and nothing else. -/
theorem State.stepGroup_frame (s : State) (p : Prog) : s.stepGroup p = { s with progs := (s.stepGroup p).progs } := by
  simp only [State.stepGroup]
  split <;> rfl

/-- The gain law fires SETTLED_CHANGE alone, where it changed the flag of its programme (R99). -/
theorem State.notice_gainLaw (s : State) (p : Prog) (q : Port) : (s.gainLaw p).notice q = { s.notice q with
    pending := (s.notice q).pending |||
      ((s.notice q).mask &&& Source.settledChange.bitIf (((s.gainLaw p).prog p).settled != (s.prog p).settled)) } := by
  cases h : (s.prog p).nonHold with
  | none => rw [State.gainLaw_hold h, bne_self_eq_false]; simp [Source.bitIf]
  | some r =>
    simp only [State.gainLaw, h, State.fireSettled, State.notice_fireIf, State.prog_fireIf, State.notice_onProg]
    split
    · rw [State.stepGroup_frame]
      rfl
    · rfl

/-- What a run of the gain law leaves of its programme. -/
structure Programme.KeptByLaw (P Q : Programme) : Prop where
  queue : Q.queue = P.queue
  histogram : Q.histogram = P.histogram
  momentary : Q.momentary = P.momentary
  shortTerm : Q.shortTerm = P.shortTerm
  readingM : Q.readingM = P.readingM
  readingS : Q.readingS = P.readingS
  front : Q.front = P.front
  lost : Q.lost = P.lost
  trim : Q.trim = P.trim
  mode : Q.mode = P.mode
  slots : Q.slots = P.slots
  inService : Q.inService = P.inService
  schedule : Q.schedule = P.schedule

theorem State.keptByLaw_gainLaw (s : State) (p : Prog) : (s.prog p).KeptByLaw ((s.gainLaw p).prog p) := by
  constructor <;> rw [(s.prog_gainLaw p p).1]

/-- A visit is empty where its entry names no programme, one in OFF or one with an empty queue (R47). -/
theorem State.visit_empty {s : State} {e : ScanEntry} (h : ∀ p, e = some p → (s.prog p).mode = .off ∨ (s.prog p).queue = []) :
    s.visit e = s := by
  cases e with
  | none => rfl
  | some p => exact if_pos (by simpa using h p rfl)

theorem State.visit_some {s : State} {p : Prog} (hm : (s.prog p).mode ≠ .off) (hq : (s.prog p).queue ≠ []) :
    s.visit (some p) = (s.onProg p Programme.consumeVisit).gainLaw p := if_neg (by simp [hm, hq])

/-! ### The tick (R39, R46) -/

theorem exec_scanTick {s : State} (h : s.held = false) : exec .scanTick s = .next (s.tick.followFrom s) := by
  show Host.Outcome.next _ = _
  simp only [h, Bool.false_eq_true, if_false]

/-- Where the next index stands after a tick (R46). -/
def ScanEngine.following (c : ScanEngine) : Nat := if c.next + 1 < c.table.length then c.next + 1 else 0

/-- A tick that is due, where its entry is empty and where it names a programme with a record. -/
theorem State.tick_cases {s : State} (h : s.tickDue = true) :
    ((∀ p, s.scan.table[s.scan.next]? = some (some p) → (s.prog p).mode = .off ∨ (s.prog p).queue = []) →
      s.tick = s.advanceScan s.scan.following) ∧
    (∀ p, s.scan.table[s.scan.next]? = some (some p) → (s.prog p).mode ≠ .off → (s.prog p).queue ≠ [] →
      s.tick = ((s.advanceScan s.scan.following).onProg p Programme.consumeVisit).gainLaw p) := by
  refine ⟨fun hempty => ?_, fun p hp hm hq => ?_⟩ <;> rw [State.tick_of_due h]
  · exact State.visit_empty fun p hp => hempty p (Option.join_eq_some_iff.1 hp)
  · rw [hp]
    exact State.visit_some (s := s.advanceScan s.scan.following) hm hq

/-- Settles O18: the frame of the tick, then its visit by whether the entry is empty; a visit that is not runs the gain law on what the
records leave. -/
theorem tickVisitsTheEntry : Obligations.TickVisitsTheEntry := by
  refine ⟨fun s hh hl hc => ?_, fun cap e r _ hr => ⟨r.push_cells cap e, Ring.push_sum cap e hr.2.1, ?_⟩⟩
  · have hdue : s.tickDue = true := by simp [State.tickDue, hl, hc]
    have hframe := State.tick_frame hdue
    have hscan : s.tick.scan = { s.scan with count := s.scan.reload, next := s.scan.following } := congrArg State.scan hframe
    obtain ⟨hempty, hvisit⟩ := State.tick_cases hdue
    refine ⟨_, exec_scanTick hh, ?_, hscan, fun h => ?_, fun p hp hm hq => ?_⟩
    · refine (congrArg (fun u : State => { u with notices := (s.tick.followFrom s).notices }) hframe).trans ?_
      simp only [State.followFrom_scan, hscan]
      rfl
    · rw [hempty h]
      exact ⟨fun _ => rfl, State.noticesFollow_quiet fun _ => rfl⟩
    · intro P eaten blocks h
      have ht := hvisit p hp hm hq
      generalize hu : (s.advanceScan s.scan.following).onProg p Programme.consumeVisit = u at ht
      have hself : u.prog p = P.consumeVisit := by rw [← hu, State.prog_onProg, if_pos rfl]; rfl
      have hother : ∀ q, q ≠ p → u.prog q = s.prog q := fun q hq => by rw [← hu, State.prog_onProg, if_neg hq]; rfl
      have hlinks : u.links = s.links := by rw [← hu]; rfl
      have hnotice : ∀ q, u.notice q = s.notice q := fun q => by rw [← hu]; rfl
      rw [Programme.consumeVisit_of_queue hq] at hself
      have kept := u.keptByLaw_gainLaw p
      rw [hself] at kept
      rw [ht]
      refine ⟨⟨u, ?_, hother, hself, fun _ => rfl, State.noticesFollow_followFrom fun q => ?_⟩, kept.queue, kept.histogram,
        kept.momentary, kept.shortTerm, ?_, ?_, kept.front, kept.lost, kept.trim, kept.mode, kept.slots, kept.inService,
        kept.schedule, fun q hq => ?_⟩
      · rw [State.followFrom_scan, ← ht, hscan, ← hu]
        rfl
      · rw [State.notice_gainLaw, hnotice, hself, State.prog_followFrom, bne, beq_eq_decide, decide_not]
      · exact kept.readingM.trans (congrArg (fun r : Ring => (r.mean 4).map level) kept.momentary.symm)
      · exact kept.readingS.trans (congrArg (fun r : Ring => (r.mean 30).map level) kept.shortTerm.symm)
      · obtain ⟨hmoved, hstays⟩ := (u.prog_gainLaw p q).2 hq
        rw [hother q hq] at hmoved hstays
        refine ⟨hmoved, fun hout => hstays ?_⟩
        rw [State.mem_activeGroup, State.sameGroup_congr hlinks, hother q hq]
        rintro ⟨hg, ha⟩
        exact hout.elim (fun hf => by simp [hg] at hf) fun hn => hn ha
  · exact congrArg (fun n => if _ < cap then none else some (n / cap)) (Ring.push_sum cap e hr.2.1)

end Sys2Proof.Machine

/-! PROOFS. The items of a WRITE_PROFILE payload: the parser reads a list of items exactly where the payload is their bytes (R122, R184). -/

namespace Sys2Proof

/-! ### The identifiers of items (R184) -/

theorem Field.id_le (f : Field) : f.id ≤ 14 := by cases f <;> decide

theorem ProfileItem.ofValue_steering (v : Int) : ProfileItem.ofValue 8 v = some (.steering v) := rfl

theorem ProfileItem.ofValue_number (f : Field) (v : Int) : ProfileItem.ofValue f.id v = some (.number f v) := by cases f <;> rfl

/-- What an identifier with a value makes is the steering at 8 and the numeric field of that number elsewhere. -/
theorem ProfileItem.ofValue_some {n : Nat} {v : Int} {x : ProfileItem} (h : ProfileItem.ofValue n v = some x) :
    (n = 8 ∧ x = .steering v) ∨ ∃ f : Field, n = f.id ∧ x = .number f v := by
  unfold ProfileItem.ofValue at h
  split at h
  · rename_i hn
    exact .inl ⟨hn, (Option.some.inj h).symm⟩
  · obtain ⟨f, hf, rfl⟩ := Option.map_eq_some_iff.1 h
    have := List.find?_some hf
    exact .inr ⟨f, (of_decide_eq_true this).symm, rfl⟩

end Sys2Proof

namespace Sys2Proof.Machine

/-! ### Words and their bytes (R172) -/

theorem word16_toNat (lo hi : Byte) : (word16 lo hi).toNat = lo.toNat + 256 * hi.toNat := by
  rw [word16, BitVec.toNat_append, ← Nat.shiftLeft_add_eq_or_of_lt lo.isLt, Nat.shiftLeft_eq]
  omega

theorem bytes16_word16 (lo hi : Byte) : bytes16 (word16 lo hi) = [lo, hi] := by
  have hlo : (word16 lo hi).setWidth 8 = lo := BitVec.eq_of_toNat_eq (by simp [word16_toNat]; omega)
  have hhi : (word16 lo hi >>> 8).setWidth 8 = hi :=
    BitVec.eq_of_toNat_eq (by simp [word16_toNat, Nat.shiftRight_eq_div_pow]; omega)
  rw [bytes16, hlo, hhi]

theorem signed16_word16 (lo hi : Byte) : signed16 (word16 lo hi).toInt = [lo, hi] := by
  rw [signed16, BitVec.ofInt_toInt, bytes16_word16]

/-- A signed word is read back from its two bytes. -/
theorem signed16_eq {v : Int} (h1 : -32768 ≤ v) (h2 : v ≤ 32767) : ∃ lo hi, signed16 v = [lo, hi] ∧ (word16 lo hi).toInt = v := by
  refine ⟨_, _, rfl, ?_⟩
  rw [word16_bytes, BitVec.toInt_ofInt]
  exact Int.bmod_eq_of_le (by omega) (by omega)

theorem count8_toNat (b : Byte) : count8 b.toNat = b := by simp [count8]

theorem toNat_count8 {n : Nat} (h : n ≤ 255) : (count8 n).toNat = n := by simp [count8]; omega

/-! ### One item (R184) -/

theorem valueOk_label (chars : List Byte) : (ProfileItem.label chars).valueOk = true ↔ itemOk (.label chars) := by
  simp [ProfileItem.valueOk, itemOk, printable]

theorem valueOk_of_itemOk {x : ProfileItem} (h : itemOk x) : x.valueOk = true := by
  cases x with
  | number f v => rfl
  | steering v => simpa [ProfileItem.valueOk, itemOk] using h
  | label chars => exact (valueOk_label chars).2 h

/-! ### The parser -/

theorem parseItems_value {id lo hi : Byte} {rest : List Byte} {x : ProfileItem} (fuel : Nat) (hid : id.toNat ≠ 15)
    (hx : ProfileItem.ofValue id.toNat (word16 lo hi).toInt = some x) :
    parseItems (fuel + 1) (id :: lo :: hi :: rest) = (parseItems fuel rest).map (x :: ·) := by
  simp only [parseItems, hid, if_false, hx]

theorem parseItems_label {n : Byte} {rest : List Byte} (fuel : Nat) (hn : n.toNat ≤ rest.length) :
    parseItems (fuel + 1) (15 :: n :: rest) =
      (parseItems fuel (rest.drop n.toNat)).map (.label (rest.take n.toNat) :: ·) := by
  simp only [parseItems, if_pos hn]
  rfl

/-- The parser takes a well-formed item off the front. -/
theorem parseItems_item {x : ProfileItem} (h : itemOk x) (fuel : Nat) (rest : List Byte) :
    parseItems (fuel + 1) (itemBytes x ++ rest) = (parseItems fuel rest).map (x :: ·) := by
  cases x with
  | number f v =>
    obtain ⟨h1, h2⟩ := h
    obtain ⟨lo, hi, hb, hw⟩ := signed16_eq h1 h2
    have hid : (count8 f.id).toNat = f.id := toNat_count8 (f.id_le.trans (by decide))
    rw [itemBytes, hb]
    exact parseItems_value fuel (by have := f.id_le; omega) (by rw [hid, hw, ProfileItem.ofValue_number])
  | steering v =>
    have hv : v = 0 ∨ v = 1 := h
    obtain ⟨lo, hi, hb, hw⟩ := signed16_eq (v := v) (by omega) (by omega)
    rw [itemBytes, hb]
    exact parseItems_value (id := 8) fuel (by decide) (by rw [hw]; exact ProfileItem.ofValue_steering v)
  | label chars =>
    obtain ⟨hlen, -⟩ := h
    have hn : (count8 chars.length).toNat = chars.length := toNat_count8 (hlen.trans (by decide))
    have hp := parseItems_label (n := count8 chars.length) (rest := chars ++ rest) fuel (by simp [hn])
    rw [hn, List.drop_left, List.take_left] at hp
    exact hp

/-- What the parser takes off the front is an item, and is well-formed where its value is not malformed. -/
theorem parseItems_cons {fuel : Nat} {b : Byte} {bytes : List Byte} {items : List ProfileItem}
    (h : parseItems (fuel + 1) (b :: bytes) = some items) :
    ∃ x xs rest, items = x :: xs ∧ b :: bytes = itemBytes x ++ rest ∧ parseItems fuel rest = some xs ∧
      (x.valueOk = true → itemOk x) := by
  by_cases hb : b.toNat = 15
  · obtain rfl : b = 15 := BitVec.eq_of_toNat_eq hb
    match bytes with
    | [] => simp [parseItems] at h
    | n :: rest =>
      by_cases hn : n.toNat ≤ rest.length
      · rw [parseItems_label fuel hn] at h
        obtain ⟨xs, hxs, rfl⟩ := Option.map_eq_some_iff.1 h
        refine ⟨_, xs, rest.drop n.toNat, rfl, ?_, hxs, (valueOk_label _).1⟩
        rw [itemBytes, List.length_take_of_le hn, count8_toNat, List.cons_append, List.cons_append, List.take_append_drop]
      · simp [parseItems, hn] at h
  · match bytes with
    | [] => simp [parseItems, hb] at h
    | [_] => simp [parseItems, hb] at h
    | lo :: hi :: rest =>
      cases hx : ProfileItem.ofValue b.toNat (word16 lo hi).toInt with
      | none => simp [parseItems, hb, hx] at h
      | some x =>
        rw [parseItems_value fuel hb hx] at h
        obtain ⟨xs, hxs, rfl⟩ := Option.map_eq_some_iff.1 h
        refine ⟨x, xs, rest, rfl, ?_, hxs, ?_⟩
        all_goals rcases ProfileItem.ofValue_some hx with ⟨h8, rfl⟩ | ⟨f, hf, rfl⟩
        · obtain rfl : b = 8 := BitVec.eq_of_toNat_eq h8
          rw [itemBytes, signed16_word16]
          rfl
        · rw [itemBytes, signed16_word16, ← hf, count8_toNat]
          rfl
        · simp [ProfileItem.valueOk, itemOk]
        · have h1 := BitVec.le_toInt (word16 lo hi)
          have h2 := BitVec.toInt_lt (x := word16 lo hi)
          exact fun _ => ⟨by simpa using h1, by norm_num at h2; omega⟩

theorem parseItems_sound {fuel : Nat} {bytes : List Byte} {items : List ProfileItem} (h : parseItems fuel bytes = some items) :
    bytes = items.flatMap itemBytes ∧ ∀ x ∈ items, x.valueOk = true → itemOk x := by
  induction fuel generalizing bytes items with
  | zero =>
    cases bytes with
    | nil => obtain rfl := Option.some.inj h; simp
    | cons b bytes => cases h
  | succ fuel ih =>
    cases bytes with
    | nil => obtain rfl := Option.some.inj h; simp
    | cons b bytes =>
      obtain ⟨x, xs, rest, rfl, hb, hrest, hx⟩ := parseItems_cons h
      obtain ⟨hbytes, hok⟩ := ih hrest
      rw [hb, hbytes]
      exact ⟨rfl, List.forall_mem_cons.2 ⟨hx, hok⟩⟩

theorem itemBytes_pos (x : ProfileItem) : 1 ≤ (itemBytes x).length := by cases x <;> simp [itemBytes]

theorem parseItems_complete {items : List ProfileItem} (h : ∀ x ∈ items, itemOk x) :
    ∀ fuel, (items.flatMap itemBytes).length ≤ fuel → parseItems fuel (items.flatMap itemBytes) = some items := by
  induction items with
  | nil => exact fun fuel _ => by cases fuel <;> rfl
  | cons x xs ih =>
    intro fuel hf
    obtain ⟨hx, hxs⟩ := List.forall_mem_cons.1 h
    rw [List.flatMap_cons, List.length_append] at hf
    have hpos := itemBytes_pos x
    obtain ⟨fuel, rfl⟩ : ∃ k, fuel = k + 1 := ⟨fuel - 1, by omega⟩
    rw [List.flatMap_cons, parseItems_item hx, ih hxs fuel (by omega), Option.map_some]

/-- The payloads of WRITE_PROFILE that carry well-formed items, apart from the parser (R184). -/
theorem profileItems_eq_some (bytes : List Byte) (items : List ProfileItem) : profileItems bytes = some items ↔
    bytes = items.flatMap itemBytes ∧ (items.map ProfileItem.id).Nodup ∧ ∀ x ∈ items, itemOk x := by
  constructor
  · intro h
    unfold profileItems at h
    split at h
    · cases h
    · rename_i parsed hp
      split at h
      · rename_i hc
        obtain rfl := Option.some.inj h
        obtain ⟨hbytes, hok⟩ := parseItems_sound hp
        rw [Bool.and_eq_true, decide_eq_true_eq, List.all_eq_true] at hc
        exact ⟨hbytes, hc.1, fun x hx => hok x hx (hc.2 x hx)⟩
      · cases h
  · rintro ⟨rfl, hnodup, hok⟩
    have hall : items.all ProfileItem.valueOk = true :=
      List.all_eq_true.2 fun x hx => valueOk_of_itemOk (hok x hx)
    simp only [profileItems, parseItems_complete hok _ le_rfl, hall, hnodup, decide_true, Bool.and_self, if_true]

end Sys2Proof.Machine

/-! PROOFS. Requests refused for their form: the size and the target of the fixed forms, the unknown codes, and the payload values that are
out of range or malformed (R44, R75, R125, R129, R138, R143, R163, R179, R180, R184, R185). -/

namespace Sys2Proof.Machine

/-! ### The checks that refuse (R179) -/

theorem needBelow_lt {n : Nat} {b : Byte} (h : b.toNat < n) (s : State) (k : Fin n → Reply) :
    needBelow n b s k = k ⟨b.toNat, h⟩ := dif_pos h

/-- A check of a range is refused BAD_TARGET where every value in range is. -/
theorem needBelow_refuse {n : Nat} {b : Byte} {s : State} {k : Fin n → Reply} (h : ∀ i, b.toNat < n → k i = refuse s .badTarget) :
    needBelow n b s k = refuse s .badTarget := by
  unfold needBelow
  split
  · exact h _ ‹_›
  · rfl

/-- A check of a value is refused BAD_REQUEST where every value that is not malformed is. -/
theorem needValue_refuse {α : Type} {x : Option α} {s : State} {k : α → Reply}
    (h : ∀ a, x = some a → k a = refuse s .badRequest) : needValue x s k = refuse s .badRequest := by
  cases x with
  | none => rfl
  | some a => exact h a rfl

/-! ### The names carried as one byte (R180) -/

theorem boolOf_lt {b : Byte} {x : Bool} (h : boolOf b = some x) : b.toNat < 2 := by
  unfold boolOf at h
  split_ifs at h <;> simp [*]

theorem modeOf_lt {b : Byte} {m : Mode} (h : modeOf b = some m) : b.toNat < 3 := by
  unfold modeOf at h
  split_ifs at h <;> simp [*]

theorem polarityOf_lt {b : Byte} {x : Polarity} (h : polarityOf b = some x) : b.toNat < 2 := by
  unfold polarityOf at h
  split_ifs at h <;> simp [*]

theorem actionOf_lt {b : Byte} {a : CueAction} (h : actionOf b = some a) : b.toNat < 4 := by
  unfold actionOf at h
  split_ifs at h <;> simp [*]

/-! ### Requests by their command and their service -/

/-- The command `c` is a message of this code, served by `serve`. -/
def Serves (serve : Serve) (code : Byte) (c : RequestCommand) : Prop :=
  ∀ port target payload s, exec (c port target payload) s = .next (s.takeMessage port code target payload serve)

/-- A request of this code and command passes the check of the class of its port (R161). -/
def State.PassesClass (s : State) (port : Port) (code : Byte) (c : RequestCommand) : Prop :=
  (s.port port).access = .full ∨ (code, c) ∈ openCommands

theorem State.PassesClass.hear {s : State} {port : Port} {code : Byte} {c : RequestCommand} (h : s.PassesClass port code c) :
    (s.hear port).PassesClass port code c := h.imp_left fun hf => (s.access_hear port port).trans hf

/-- A request that is no read and no notice request needs a FULL port. -/
theorem State.PassesClass.full {s : State} {port : Port} {code : Byte} {c : RequestCommand} (h : s.PassesClass port code c)
    (hcode : code ∉ openCommands.map (·.1)) : (s.port port).access = .full :=
  h.resolve_right fun hm => hcode (List.mem_map_of_mem hm)

/-- A request whose service refuses it is answered so, and nothing else changes. -/
theorem Serves.refuses {serve : Serve} {code target : Byte} {c : RequestCommand} (hc : Serves serve code c) {s : State} {port : Port}
    {payload : List Byte} {r : Result} (h : s.Ready port) (hp : payload.length ≤ 48)
    (hs : serve port target payload (s.hear port) = refuse (s.hear port) r) :
    ∃ t, exec (c port target payload) s = .next t ∧ s.Refuses t port code target r [] := by
  obtain ⟨t, ht, hr, -⟩ := State.takeMessage_refuses code target h hp hs
  exact ⟨t, ht ▸ hc port target payload s, hr⟩

/-! ### Sizes and targets -/

/-- Requests of the form `f` are served by `serve`, which checks their size first and then their target. -/
structure Form.ServedBy (f : Form) (serve : Serve) : Prop where
  serves : Serves serve f.code f.command
  checks : ∀ port target payload s, s.PassesClass port f.code f.command →
    ∃ k, serve port target payload s = needSize f.size payload s k ∧
      ∀ n, f.targets = some n → n ≤ target.toNat → k = refuse s .badTarget

/-- A form that is served on FULL ports alone. -/
theorem Form.ServedBy.of_full {f : Form} {serve : Serve} (hcode : f.code ∉ openCommands.map (·.1))
    (hs : Serves serve f.code f.command)
    (h : ∀ port target payload s, ∃ k, serve port target payload s = needFull port s (needSize f.size payload s k) ∧
      ∀ n, f.targets = some n → n ≤ target.toNat → k = refuse s .badTarget) : f.ServedBy serve :=
  ⟨hs, fun port target payload s ha => (h port target payload s).imp fun _ hk =>
    hk.imp_left fun he => he.trans (needFull_full (ha.full hcode) _)⟩

/-- A reply that checks the target first. -/
theorem refuses_target {m : Nat} {b : Byte} {s : State} (k : Fin m → Reply) :
    ∀ n, some m = some n → n ≤ b.toNat → needBelow m b s k = refuse s .badTarget := by
  rintro _ ⟨⟩ h
  exact needBelow_out h s k

/-- Every request of fixed size has its service. -/
theorem fixedForms_served : ∀ f ∈ fixedForms, ∃ serve, f.ServedBy serve := by
  simp only [fixedForms, List.forall_mem_cons]
  exact
    ⟨⟨serveReadProgramme, fun _ _ _ _ => rfl, fun _ _ _ _ _ => ⟨_, rfl, refuses_target _⟩⟩,
     ⟨serveReadProfile, fun _ _ _ _ => rfl, fun _ _ _ _ _ => ⟨_, rfl, refuses_target _⟩⟩,
     ⟨serveReadHistogram, fun _ _ _ _ => rfl, fun _ _ _ _ _ => ⟨_, rfl, refuses_target _⟩⟩,
     ⟨serveReadCueLog, fun _ _ _ _ => rfl, fun _ _ _ _ _ => ⟨_, rfl, nofun⟩⟩,
     ⟨serveReadDevice, fun _ _ _ _ => rfl, fun _ _ _ _ _ => ⟨_, rfl, nofun⟩⟩,
     ⟨serveReadNotices, fun _ _ _ _ => rfl, fun _ _ _ _ _ => ⟨_, rfl, nofun⟩⟩,
     ⟨serveClaim, .of_full (by decide) (fun _ _ _ _ => rfl) fun _ _ _ _ => ⟨_, rfl, refuses_target _⟩⟩,
     ⟨serveRelease, .of_full (by decide) (fun _ _ _ _ => rfl) fun _ _ _ _ => ⟨_, rfl, refuses_target _⟩⟩,
     ⟨serveSetMode, .of_full (by decide) (fun _ _ _ _ => rfl) fun _ _ _ _ => ⟨_, rfl, refuses_target _⟩⟩,
     ⟨serveCopyProfile, .of_full (by decide) (fun _ _ _ _ => rfl) fun _ _ _ _ => ⟨_, rfl, refuses_target _⟩⟩,
     ⟨serveSetTrim, .of_full (by decide) (fun _ _ _ _ => rfl) fun _ _ _ _ => ⟨_, rfl, refuses_target _⟩⟩,
     ⟨serveSetSchedule, .of_full (by decide) (fun _ _ _ _ => rfl) fun _ _ _ _ => ⟨_, rfl, refuses_target _⟩⟩,
     ⟨serveForceSlot, .of_full (by decide) (fun _ _ _ _ => rfl) fun _ _ _ _ => ⟨_, rfl, refuses_target _⟩⟩,
     ⟨serveSetCount, .of_full (by decide) (fun _ _ _ _ => rfl) fun _ _ _ _ => ⟨_, rfl, refuses_target _⟩⟩,
     ⟨serveRestartSegment, .of_full (by decide) (fun _ _ _ _ => rfl) fun _ _ _ _ => ⟨_, rfl, refuses_target _⟩⟩,
     ⟨servePause, .of_full (by decide) (fun _ _ _ _ => rfl) fun _ _ _ _ => ⟨_, rfl, refuses_target _⟩⟩,
     ⟨serveResume, .of_full (by decide) (fun _ _ _ _ => rfl) fun _ _ _ _ => ⟨_, rfl, refuses_target _⟩⟩,
     ⟨serveResetProgramme, .of_full (by decide) (fun _ _ _ _ => rfl) fun _ _ _ _ => ⟨_, rfl, refuses_target _⟩⟩,
     ⟨serveSetLink, .of_full (by decide) (fun _ _ _ _ => rfl) fun _ _ _ _ => ⟨_, rfl, refuses_target _⟩⟩,
     ⟨serveSetScanPeriod, .of_full (by decide) (fun _ _ _ _ => rfl) fun _ _ _ _ => ⟨_, rfl, nofun⟩⟩,
     ⟨serveConfigCue, .of_full (by decide) (fun _ _ _ _ => rfl) fun _ _ _ _ => ⟨_, rfl, refuses_target _⟩⟩,
     ⟨serveDropCueEntries, .of_full (by decide) (fun _ _ _ _ => rfl) fun _ _ _ _ => ⟨_, rfl, nofun⟩⟩,
     ⟨serveResetDevice, .of_full (by decide) (fun _ _ _ _ => rfl) fun _ _ _ _ => ⟨_, rfl, nofun⟩⟩,
     ⟨serveSetNoticeMask, fun _ _ _ _ => rfl, fun _ _ _ _ _ => ⟨_, rfl, nofun⟩⟩,
     ⟨serveSetNoticeMode, fun _ _ _ _ => rfl, fun _ _ _ _ _ => ⟨_, rfl, nofun⟩⟩,
     ⟨serveAckNotices, fun _ _ _ _ => rfl, fun _ _ _ _ _ => ⟨_, rfl, nofun⟩⟩, nofun⟩

/-! ### Unknown codes -/

/-- A code outside the twenty-eight has no row in the table of requests (R179). -/
theorem serveCode_unknown {code : Byte} (h : code ∉ requestCodes) : serveCode code = serveUnknown := by
  have hrows : ∀ row ∈ requestTable, ¬ decide (row.1 = code) = true := fun row hrow hc =>
    h (of_decide_eq_true hc ▸ (List.mem_map_of_mem hrow : row.1 ∈ requestTable.map (·.1)))
  rw [serveCode, List.find?_eq_none.2 hrows]
  rfl

/-! ### Payload values -/

/-- Requests of the form `f` are served by `serve`, which refuses their faulty payloads. -/
structure Faulty.ServedBy (f : Faulty) (serve : Serve) : Prop where
  serves : Serves serve f.code f.command
  refuses : ∀ port target payload s, s.PassesClass port f.code f.command → payload.length ≤ 48 → target.toNat < f.targets →
    f.faulty payload = true → serve port target payload s = refuse s f.result

theorem Faulty.ServedBy.of_full {f : Faulty} {serve : Serve} (hcode : f.code ∉ openCommands.map (·.1))
    (hs : Serves serve f.code f.command)
    (h : ∀ port target payload s, (s.port port).access = .full → payload.length ≤ 48 → target.toNat < f.targets →
      f.faulty payload = true → serve port target payload s = refuse s f.result) : f.ServedBy serve :=
  ⟨hs, fun port target payload s ha => h port target payload s (ha.full hcode)⟩

section Refused
variable {s : State} {port : Port} {target : Byte} {d : List Byte}

theorem serveReadProfile_slot (ht : target.toNat < 8) (hd : d.length = 1) (h : 2 ≤ (byteAt d 0).toNat) :
    serveReadProfile port target d s = refuse s .badTarget := by
  rw [serveReadProfile, needSize_eq hd, needBelow_lt ht, needBelow_out h]

theorem serveReadHistogram_start (ht : target.toNat < 8) (hd : d.length = 3)
    (h : 291 < (byteAt d 0).toNat + 256 * (byteAt d 1).toNat) : serveReadHistogram port target d s = refuse s .badRequest := by
  have hstart : 291 < (word16At d 0).toNat := by rwa [word16At, word16_toNat]
  rw [serveReadHistogram, needSize_eq hd, needBelow_lt ht]
  exact if_pos hstart

variable (hf : (s.port port).access = .full)
include hf

theorem serveSetMode_mode (ht : target.toNat < 8) (hd : d.length = 1) (h : 3 ≤ (byteAt d 0).toNat) :
    serveSetMode port target d s = refuse s .badRequest := by
  rw [serveSetMode, needFull_full hf, needSize_eq hd, needBelow_lt ht]
  exact needValue_refuse fun m hm => absurd (modeOf_lt hm) (by omega)

theorem serveWriteProfile_empty : serveWriteProfile port target [] s = refuse s .badRequest := by
  rw [serveWriteProfile, needFull_full hf, if_pos rfl]

theorem serveWriteProfile_target (ht : 8 ≤ target.toNat) (hd : d ≠ []) :
    serveWriteProfile port target d s = refuse s .badTarget := by
  rw [serveWriteProfile, needFull_full hf, if_neg hd, needBelow_out ht]

theorem serveWriteProfile_slot (ht : target.toNat < 8) (hd : d ≠ []) (h : 2 ≤ (byteAt d 0).toNat) :
    serveWriteProfile port target d s = refuse s .badTarget := by
  rw [serveWriteProfile, needFull_full hf, if_neg hd, needBelow_lt ht, needBelow_out h]

theorem serveWriteProfile_items (ht : target.toNat < 8) (hd : d ≠ []) (hs : (byteAt d 0).toNat < 2)
    (h : profileItems d.tail = none) : serveWriteProfile port target d s = refuse s .badRequest := by
  rw [serveWriteProfile, needFull_full hf, if_neg hd, needBelow_lt ht, needBelow_lt hs, needValue_none h]

theorem serveCopyProfile_slots (ht : target.toNat < 8) (hd : d.length = 3)
    (h : 2 ≤ (byteAt d 0).toNat ∨ 8 ≤ (byteAt d 1).toNat ∨ 2 ≤ (byteAt d 2).toNat) :
    serveCopyProfile port target d s = refuse s .badTarget := by
  rw [serveCopyProfile, needFull_full hf, needSize_eq hd, needBelow_lt ht]
  exact needBelow_refuse fun _ h0 => needBelow_refuse fun _ h1 => needBelow_refuse fun _ h2 => by omega

theorem serveSetSchedule_enable (ht : target.toNat < 8) (hd : d.length = 13) (h : 2 ≤ (byteAt d 12).toNat) :
    serveSetSchedule port target d s = refuse s .badRequest := by
  rw [serveSetSchedule, needFull_full hf, needSize_eq hd, needBelow_lt ht]
  exact needValue_refuse fun b hb => absurd (boolOf_lt hb) (by omega)

theorem serveForceSlot_slot (ht : target.toNat < 8) (hd : d.length = 1) (h : 2 ≤ (byteAt d 0).toNat) :
    serveForceSlot port target d s = refuse s .badTarget := by
  rw [serveForceSlot, needFull_full hf, needSize_eq hd, needBelow_lt ht, needBelow_out h]

theorem serveSetLink_setting (ht : target.toNat < 7) (hd : d.length = 1) (h : 2 ≤ (byteAt d 0).toNat) :
    serveSetLink port target d s = refuse s .badRequest := by
  rw [serveSetLink, needFull_full hf, needSize_eq hd, needBelow_lt ht]
  exact needValue_refuse fun b hb => absurd (boolOf_lt hb) (by omega)

theorem serveLoadScanTable_malformed (hd : d.length ≤ 48) (h : scanPayloadOk d = false) :
    serveLoadScanTable port target d s = refuse s .badRequest := by
  have hnone : scanTableOf d = none := Option.not_isSome_iff_eq_none.1 (by simp [scanTableOf_isSome hd, h])
  rw [serveLoadScanTable, needFull_full hf, needValue_none hnone]

theorem serveConfigCue_programme (ht : target.toNat < 4) (hd : d.length = 7) (h : 8 ≤ (byteAt d 1).toNat) :
    serveConfigCue port target d s = refuse s .badTarget := by
  rw [serveConfigCue, needFull_full hf, needSize_eq hd, needBelow_lt ht, needBelow_out h]

theorem serveConfigCue_value (ht : target.toNat < 4) (hd : d.length = 7) (hp : (byteAt d 1).toNat < 8)
    (h : 2 ≤ (byteAt d 0).toNat ∨ 2 ≤ (byteAt d 2).toNat ∨ 4 ≤ (byteAt d 5).toNat ∨ 2 ≤ (byteAt d 6).toNat) :
    serveConfigCue port target d s = refuse s .badRequest := by
  rw [serveConfigCue, needFull_full hf, needSize_eq hd, needBelow_lt ht, needBelow_lt hp]
  refine needValue_refuse fun _ h0 => needValue_refuse fun _ h2 => needValue_refuse fun _ h5 => needValue_refuse fun _ h6 => ?_
  have b0 := boolOf_lt h0
  have b2 := polarityOf_lt h2
  have b5 := actionOf_lt h5
  have b6 := boolOf_lt h6
  omega

end Refused

/-- Every form of a faulty payload has its service, which refuses it. -/
theorem faultyForms_served : ∀ f ∈ faultyForms, ∃ serve, f.ServedBy serve := by
  simp only [faultyForms, List.forall_mem_cons]
  refine
    ⟨⟨serveReadProfile, fun _ _ _ _ => rfl, fun _ _ _ _ _ _ ht h => ?readProfile⟩,
     ⟨serveReadHistogram, fun _ _ _ _ => rfl, fun _ _ _ _ _ _ ht h => ?readHistogram⟩,
     ⟨serveSetMode, .of_full (by decide) (fun _ _ _ _ => rfl) fun _ _ _ _ hf _ ht h => ?setMode⟩,
     ⟨serveWriteProfile, .of_full (by decide) (fun _ _ _ _ => rfl) fun _ _ _ _ hf _ _ h => ?empty⟩,
     ⟨serveWriteProfile, .of_full (by decide) (fun _ _ _ _ => rfl) fun _ _ _ _ hf _ ht h => ?slot⟩,
     ⟨serveWriteProfile, .of_full (by decide) (fun _ _ _ _ => rfl) fun _ _ _ _ hf _ ht h => ?items⟩,
     ⟨serveCopyProfile, .of_full (by decide) (fun _ _ _ _ => rfl) fun _ _ _ _ hf _ ht h => ?copyProfile⟩,
     ⟨serveSetSchedule, .of_full (by decide) (fun _ _ _ _ => rfl) fun _ _ _ _ hf _ ht h => ?setSchedule⟩,
     ⟨serveForceSlot, .of_full (by decide) (fun _ _ _ _ => rfl) fun _ _ _ _ hf _ ht h => ?forceSlot⟩,
     ⟨serveSetLink, .of_full (by decide) (fun _ _ _ _ => rfl) fun _ _ _ _ hf _ ht h => ?setLink⟩,
     ⟨serveLoadScanTable, .of_full (by decide) (fun _ _ _ _ => rfl) fun _ _ _ _ hf hd _ h => ?loadScanTable⟩,
     ⟨serveConfigCue, .of_full (by decide) (fun _ _ _ _ => rfl) fun _ _ _ _ hf _ ht h => ?programme⟩,
     ⟨serveConfigCue, .of_full (by decide) (fun _ _ _ _ => rfl) fun _ _ _ _ hf _ ht h => ?value⟩, nofun⟩
  all_goals simp only [Bool.and_eq_true, Bool.or_eq_true, decide_eq_true_eq, Bool.not_eq_true', Option.isNone_iff_eq_none] at h
  case readProfile => exact serveReadProfile_slot ht h.1 h.2
  case readHistogram => exact serveReadHistogram_start ht h.1 h.2
  case setMode => exact serveSetMode_mode hf ht h.1 h.2
  case empty =>
    subst h
    exact serveWriteProfile_empty hf
  case slot => exact serveWriteProfile_slot hf ht (List.ne_nil_of_length_pos h.1) h.2
  case items =>
    obtain ⟨⟨hd, hs⟩, hi⟩ := h
    exact serveWriteProfile_items hf ht (List.ne_nil_of_length_pos hd) (by omega) hi
  case copyProfile => exact serveCopyProfile_slots hf ht h.1 (or_assoc.1 h.2)
  case setSchedule => exact serveSetSchedule_enable hf ht h.1 h.2
  case forceSlot => exact serveForceSlot_slot hf ht h.1 h.2
  case setLink => exact serveSetLink_setting hf ht h.1 h.2
  case loadScanTable => exact serveLoadScanTable_malformed hf hd h
  case programme => exact serveConfigCue_programme hf ht h.1 h.2
  case value =>
    obtain ⟨⟨hd, hp⟩, hv⟩ := h
    exact serveConfigCue_value hf ht hd hp (by omega)

/-- Settles O29: the tables of forms by the service of each row, and the items by the parser's law. -/
theorem malformedRequestsAreRefused : Obligations.MalformedRequestsAreRefused := by
  refine ⟨fun f hf s port target payload h ha hp => ?_, fun s port code target payload h hcode hp => ?_,
    fun f hf s port target payload h ha hp ht hd => ?_, fun s port target payload h ht hd hp => ?_, profileItems_eq_some⟩
  · obtain ⟨serve, hserves, hchecks⟩ := fixedForms_served f hf
    obtain ⟨k, hk, htarget⟩ := hchecks port target payload (s.hear port) (State.PassesClass.hear ha)
    refine ⟨fun hd => hserves.refuses h hp (hk.trans (needSize_ne hd _ k)), fun n hn hd ht => hserves.refuses h hp ?_⟩
    rw [hk, needSize_eq hd, htarget n hn ht]
  · have hserves : Serves (serveCode code) code (Instr.unknownRequest · code · ·) := fun _ _ _ _ => rfl
    exact hserves.refuses h hp (by rw [serveCode_unknown hcode]; rfl)
  · obtain ⟨serve, hserves, hrefuses⟩ := faultyForms_served f hf
    exact hserves.refuses h hp (hrefuses port target payload (s.hear port) (State.PassesClass.hear ha) hp ht hd)
  · have hserves : Serves serveWriteProfile 0x21 .writeProfile := fun _ _ _ _ => rfl
    exact hserves.refuses h.1 hp (serveWriteProfile_target ((s.access_hear port port).trans h.2) ht hd)

end Sys2Proof.Machine

/-! PROOFS. The powers of ten against real powers (R63, R108, R111): the comparison of integer powers, the integer part, and the nearest
integer. -/

namespace Sys2Proof.Machine

/-- The comparison of integer powers that `floorPow10` makes is one of real powers. -/
theorem powBelow_iff {n : Nat} (hn : n ≠ 0) (k : Nat) (e : Int) (a : Nat) :
    powBelow k n e a = true ↔ (a : ℝ) ≤ 2 ^ k * (10 : ℝ) ^ ((e : ℝ) / n) := by
  have hroot : ((10 : ℝ) ^ ((e : ℝ) / n)) ^ n = (10 : ℝ) ^ e := by
    rw [← Real.rpow_natCast, ← Real.rpow_mul (by norm_num), div_mul_cancel₀ _ (by exact_mod_cast hn), Real.rpow_intCast]
  rw [powBelow, timesPow10Le_iff, zpow_neg, ← div_eq_mul_inv, div_le_iff₀ (by positivity),
    ← pow_le_pow_iff_left₀ (a := (a : ℝ)) (by positivity) (by positivity) hn, mul_pow, hroot, ← pow_mul]
  push_cast
  rfl

/-- `floorPow10` is the integer part of `2^k * 10^(e/n)` within the range of its search. -/
theorem floorPow10_eq {k n bits : Nat} {e : Int} (hn : n ≠ 0) (hbits : 2 ^ k * (10 : ℝ) ^ ((e : ℝ) / n) < 2 ^ bits) :
    floorPow10 k n e bits = ⌊2 ^ k * (10 : ℝ) ^ ((e : ℝ) / n)⌋₊ := by
  obtain ⟨hpass, hlast⟩ := greatest_spec (P := powBelow k n e) (fun x y hxy hy => by
      have hcast : (x : ℝ) ≤ y := by exact_mod_cast hxy
      exact (powBelow_iff hn k e x).2 (hcast.trans ((powBelow_iff hn k e y).1 hy)))
    bits 0 ((powBelow_iff hn k e 0).2 (by push_cast; positivity))
  have hmax : ∀ y : Nat, (y : ℝ) ≤ 2 ^ k * (10 : ℝ) ^ ((e : ℝ) / n) → y ≤ floorPow10 k n e bits := fun y hy => by
    have hy' : y < 2 ^ bits := by exact_mod_cast hy.trans_lt hbits
    exact hlast y (by omega) ((powBelow_iff hn k e y).2 hy)
  exact le_antisymm (Nat.le_floor ((powBelow_iff hn k e _).1 hpass)) (hmax _ (Nat.floor_le (by positivity)))

/-- `nearestPow10` halves the integer part of the double. -/
theorem nearestPow10_eq {k n bits : Nat} {e : Int} (hn : n ≠ 0) (hbits : 2 ^ k * (10 : ℝ) ^ ((e : ℝ) / n) < 2 ^ bits) :
    (nearestPow10 k n e bits : Int) = (⌊2 * (2 ^ k * (10 : ℝ) ^ ((e : ℝ) / n))⌋ + 1) / 2 := by
  have hdouble : (2 : ℝ) ^ (k + 1) * 10 ^ ((e : ℝ) / n) = 2 * (2 ^ k * 10 ^ ((e : ℝ) / n)) := by ring
  rw [nearestPow10, floorPow10_eq hn (by rw [hdouble, pow_succ]; linarith), hdouble]
  push_cast
  rw [Int.natCast_floor_eq_floor (by positivity)]

/-- `nearestPow10` is an integer nearest to `2^k * 10^(e/n)`. -/
theorem nearestPow10_rounds {k n bits : Nat} {e : Int} (hn : n ≠ 0) (hbits : 2 ^ k * (10 : ℝ) ^ ((e : ℝ) / n) < 2 ^ bits) :
    |(nearestPow10 k n e bits : ℝ) - 2 ^ k * (10 : ℝ) ^ ((e : ℝ) / n)| ≤ 1 / 2 := by
  obtain ⟨hlo, hhi⟩ := floor_double_rounds (2 ^ k * (10 : ℝ) ^ ((e : ℝ) / n))
  rw [← nearestPow10_eq hn hbits, Int.cast_natCast] at hlo hhi
  rw [abs_le]
  constructor <;> linarith

/-- The nearest integer does not decrease with the exponent. -/
theorem nearestPow10_mono {k n bits : Nat} {e f : Int} (hn : n ≠ 0) (hef : e ≤ f)
    (hbits : 2 ^ k * (10 : ℝ) ^ ((f : ℝ) / n) < 2 ^ bits) : nearestPow10 k n e bits ≤ nearestPow10 k n f bits := by
  have hpow : 2 ^ k * (10 : ℝ) ^ ((e : ℝ) / n) ≤ 2 ^ k * (10 : ℝ) ^ ((f : ℝ) / n) := by
    gcongr
    norm_num
  have hfloor := Int.floor_mono (mul_le_mul_of_nonneg_left hpow zero_le_two)
  have he := nearestPow10_eq hn (hpow.trans_lt hbits)
  have hf := nearestPow10_eq hn hbits
  omega

/-- A power of ten whose exponent is at most 0 is at most 1. -/
theorem ten_rpow_le_one {x : ℝ} (hx : x ≤ 0) : (10 : ℝ) ^ x ≤ 1 := Real.rpow_le_one_of_one_le_of_nonpos (by norm_num) hx

/-! ### Ceiling values (R108) -/

/-- The ceiling value of a ceiling of at most 0 dB is the integer part of its power, and at most the largest sample. -/
theorem ceilingValue_eq {g : Int} (hg : g ≤ 0) : ceilingValue g = min ⌊2 ^ 23 * (10 : ℝ) ^ ((g : ℝ) / 2000)⌋₊ 8388607 := by
  have hg' : (g : ℝ) ≤ 0 := by exact_mod_cast hg
  have hone : (10 : ℝ) ^ ((g : ℝ) / (2000 : Nat)) ≤ 1 := ten_rpow_le_one (by push_cast; linarith)
  rw [ceilingValue, floorPow10_eq (by norm_num) (by linarith), Nat.cast_ofNat]
  rfl

theorem ceilingValue_mono {g h : Int} (hgh : g ≤ h) (hh : h ≤ 0) : ceilingValue g ≤ ceilingValue h := by
  rw [ceilingValue_eq (hgh.trans hh), ceilingValue_eq hh]
  gcongr
  norm_num

theorem ceilingValue_lowest : ceilingValue (-1200) = 2107123 := by decide +kernel

/-! ### Representative energies (R63) -/

/-- The representative energy of bin `i` before rounding. -/
noncomputable def representativePower (i : Nat) : ℝ := 2 ^ 30 * (10 : ℝ) ^ ((-7000 + 25 * (i : ℝ) + 12.5) / 1000)

/-- The power in the terms of `nearestPow10`, as `representative` writes it. -/
theorem representativePower_eq (i : Nat) :
    representativePower i = 2 ^ 30 * (10 : ℝ) ^ (((-13975 + 50 * i : Int) : ℝ) / (2000 : Nat)) := by
  rw [representativePower]
  congr 2
  push_cast
  ring

theorem representativePower_lt {i : Nat} (hi : i < 292) : representativePower i < 2 ^ 32 := by
  have hi' : (i : ℝ) ≤ 291 := by exact_mod_cast Nat.le_of_lt_succ hi
  have hexp : (10 : ℝ) ^ ((-7000 + 25 * (i : ℝ) + 12.5) / 1000) ≤ 10 ^ (1 / 2 : ℝ) :=
    Real.rpow_le_rpow_of_exponent_le (by norm_num) (by linarith)
  have hroot : (10 : ℝ) ^ (1 / 2 : ℝ) < 4 := by
    rw [← Real.sqrt_eq_rpow, Real.sqrt_lt' (by norm_num)]
    norm_num
  rw [representativePower]
  linarith

/-- The representative energy is an integer nearest to its power (R63). -/
theorem representative_rounds {i : Nat} (hi : i < 292) : |(representative i : ℝ) - representativePower i| ≤ 1 / 2 := by
  have hlt := representativePower_lt hi
  rw [representativePower_eq] at hlt ⊢
  rw [representative]
  exact nearestPow10_rounds (by norm_num) hlt

/-! ### Reducing factors (R111) -/

/-- The reducing factor is an integer nearest to its power, at no reduction too, where it is unity (R111). -/
theorem reducingFactor_rounds (d : Nat) :
    |(reducingFactor d : ℝ) - 2 ^ 22 * (10 : ℝ) ^ (-((d : ℝ) / 48) / 2000)| ≤ 1 / 2 := by
  rw [reducingFactor]
  split
  · subst d
    norm_num [unity]
  · have hexp : -((d : ℝ) / 48) / 2000 = ((-d : Int) : ℝ) / (96000 : Nat) := by
      push_cast
      ring
    have hone : (10 : ℝ) ^ (((-d : Int) : ℝ) / (96000 : Nat)) ≤ 1 :=
      ten_rpow_le_one (by rw [← hexp]; have := d.cast_nonneg (α := ℝ); linarith)
    rw [hexp]
    exact nearestPow10_rounds (by norm_num) (by linarith)

theorem reducingFactor_le (d : Nat) : reducingFactor d ≤ 4194304 := by
  have hone : (10 : ℝ) ^ (-((d : ℝ) / 48) / 2000) ≤ 1 := ten_rpow_le_one (by have := d.cast_nonneg (α := ℝ); linarith)
  have hlt : (reducingFactor d : ℝ) < 4194304 + 1 := by linarith [(abs_le.1 (reducingFactor_rounds d)).2]
  exact Nat.le_of_lt_succ (by exact_mod_cast hlt)

/-- Settles O21: the three tables are integer parts and nearest integers of real powers. -/
theorem ceilingsAndEnergiesAreRounded : Obligations.CeilingsAndEnergiesAreRounded := by
  refine ⟨fun g hlo hhi => ⟨?_, ?_⟩, fun i => representative_rounds i.isLt,
    fun d _ => ⟨reducingFactor_rounds d, reducingFactor_le d⟩⟩
  · rw [ceilingValue_eq hhi, min_comm, ← Int.natCast_floor_eq_floor (by positivity)]
    push_cast
    rfl
  · exact ceilingValue_lowest ▸ ceilingValue_mono hlo hhi

end Sys2Proof.Machine

/-! PROOFS. A block enters the histogram (R59 to R62). -/

namespace Sys2Proof.Machine

theorem Histogram.enter_below_count {lm : Int} (h : Histogram) (hl : ¬ lm < gateLevel) : (h.enter lm).below = h.below := by
  rw [h.enter_bin hl]

/-- The bin that a block takes goes up by one, from its half where it was full; every other bin is left as the room was made (R60, R61). -/
theorem Histogram.enter_bins {lm : Int} (h : Histogram) (hl : ¬ lm < gateLevel) (j : Fin 292) :
    (h.enter lm).bins[j] = (h.withRoom (binOf lm))[j] + if j = binOf lm then 1 else 0 := by
  rw [h.enter_bin hl, Fin.getElem_fin, Vector.getElem_set]
  by_cases hj : j = binOf lm
  · simp [hj]
  · have hne : ¬ (binOf lm).val = j.val := fun he => hj (Fin.ext he.symm)
    simp [hj, hne]

theorem Histogram.withRoom_free {h : Histogram} {i : Fin 292} (hi : h.bins[i] < 65535) : h.withRoom i = h.bins :=
  if_neg (Nat.not_le.2 hi)

theorem Histogram.withRoom_full {h : Histogram} {i : Fin 292} (hi : h.bins[i] = 65535) (j : Fin 292) :
    (h.withRoom i)[j] = h.bins[j] / 2 := by
  rw [Histogram.withRoom, if_pos (show maxBin ≤ h.bins[i] from hi.ge), halveBins_getElem]

/-- The bin of R59, for a level at or above the gate. -/
theorem binOf_val {lm : Int} (hl : -7000 ≤ lm) : ((binOf lm).val : Int) = min ((lm + 7000) / 25) 291 := by
  simp only [binOf, gateLevel]
  omega

theorem Histogram.toList_bins (h : Histogram) : h.bins.toList = List.ofFn fun j : Fin 292 => h.bins[j] := by
  conv_lhs => rw [← Vector.ofFn_getElem (xs := h.bins), Vector.toList_ofFn]
  rfl

theorem Histogram.n1_eq_sum (h : Histogram) : h.n1 = ∑ j : Fin 292, h.bins[j] := by
  rw [Histogram.n1, h.toList_bins, List.sum_ofFn]

/-- One more block in one bin is one more in all (R58). -/
theorem Histogram.n1_of_one_more {h h' : Histogram} {i : Fin 292} (hb : ∀ j : Fin 292, h'.bins[j] = h.bins[j] + if j = i then 1 else 0) :
    h'.n1 = h.n1 + 1 := by
  simp only [Histogram.n1_eq_sum, hb, Finset.sum_add_distrib, Finset.sum_ite_eq', Finset.mem_univ, if_true]

theorem Histogram.bin_le_n1 (h : Histogram) (i : Fin 292) : h.bins[i] ≤ h.n1 := by
  rw [h.n1_eq_sum]
  exact Finset.single_le_sum (f := fun j : Fin 292 => h.bins[j]) (fun _ _ => Nat.zero_le _) (Finset.mem_univ i)

/-- Settles O23: below the gate only the count moves, and at or above it the bin of R59 takes the block, free or full. -/
theorem histogramTakesABlock : Obligations.HistogramTakesABlock := by
  intro h lm _ _
  refine ⟨fun hlow => ?_, fun hgate => ⟨binOf lm, binOf_val hgate, h.enter_below_count (not_lt.2 hgate),
    fun hfree => ?_, fun hfull => ?_⟩⟩
  · rw [h.enter_below hlow]
    exact ⟨rfl, rfl⟩
  · have hbins := h.enter_bins (not_lt.2 hgate)
    rw [Histogram.withRoom_free hfree] at hbins
    refine ⟨?_, fun j hj => ?_, Histogram.n1_of_one_more hbins⟩ <;> rw [hbins]
    · rw [if_pos rfl]
    · rw [if_neg hj, Nat.add_zero]
  · have hbins : ∀ j : Fin 292, (h.enter lm).bins[j] = h.bins[j] / 2 + if j = binOf lm then 1 else 0 := fun j => by
      rw [h.enter_bins (not_lt.2 hgate), Histogram.withRoom_full hfull]
    have hbin : (h.enter lm).bins[binOf lm] = 32768 := by rw [hbins, if_pos rfl, hfull]
    refine ⟨hbin, fun j hj => ?_, ?_⟩
    · rw [hbins, if_neg hj, Nat.add_zero]
    · have := (h.enter lm).bin_le_n1 (binOf lm)
      omega

end Sys2Proof.Machine

/-! PROOFS. The two passes of the integrated reading (R58, R63 to R66): the levels of the representative energies, sums and means over a
run of bins, and the relative gate. -/

namespace Sys2Proof.Machine

/-! ### The levels of the representative energies (R59, R63) -/

theorem representative_mono {i j : Nat} (hij : i ≤ j) (hj : j < 292) : representative i ≤ representative j := by
  have hlt := representativePower_lt hj
  rw [representativePower_eq] at hlt
  rw [representative, representative]
  exact nearestPow10_mono (by norm_num) (by omega) hlt

theorem representative_first : representative 0 = 111 := by decide +kernel

theorem representative_last_le : representative 291 ≤ 2 ^ 31 - 1 := by decide +kernel

/-- Every representative energy is far above 0 and at most the largest energy. -/
theorem representative_bounds {i : Nat} (hi : i < 292) : 111 ≤ representative i ∧ representative i ≤ 2 ^ 31 - 1 :=
  ⟨representative_first ▸ representative_mono (Nat.zero_le i) hi,
    (representative_mono (Nat.le_of_lt_succ hi) (by norm_num)).trans representative_last_le⟩

/-- A factor of 1.01 is at most 0.1 dB. -/
theorem logb_101_div_100_le : Real.logb 10 (101 / 100) ≤ 1 / 100 := by
  have hpow : Real.logb 10 ((101 / 100 : ℝ) ^ 100) ≤ 1 := by
    rw [Real.logb_le_iff_le_rpow (by norm_num) (by norm_num)]
    norm_num
  rw [Real.logb_pow] at hpow
  push_cast at hpow
  linarith

/-- Rounding moves a representative energy by at most 0.1 dB from the middle of its bin. -/
theorem logb_representative {i : Nat} (hi : i < 292) :
    |1000 * Real.logb 10 (representative i / 2 ^ 30) - (-7000 + 25 * (i : ℝ) + 12.5)| ≤ 10 := by
  obtain ⟨hlo, hhi⟩ := abs_le.1 (representative_rounds hi)
  have hmin : (111 : ℝ) ≤ representative i := by exact_mod_cast (representative_bounds hi).1
  rw [representativePower] at hlo hhi
  generalize hx : (-7000 + 25 * (i : ℝ) + 12.5) / 1000 = x at hlo hhi
  have hlogx : Real.logb 10 ((10 : ℝ) ^ x) = x := Real.logb_rpow (by norm_num) (by norm_num)
  have hpow : (0 : ℝ) < 10 ^ x := by positivity
  have hup : Real.logb 10 (representative i / 2 ^ 30) ≤ Real.logb 10 (101 / 100 * 10 ^ x) :=
    Real.logb_le_logb_of_le (by norm_num) (by positivity) (by linarith)
  have hdown : Real.logb 10 (10 ^ x) ≤ Real.logb 10 (101 / 100 * (representative i / 2 ^ 30)) :=
    Real.logb_le_logb_of_le (by norm_num) hpow (by linarith)
  rw [Real.logb_mul (by norm_num) (by positivity), hlogx] at hup
  rw [Real.logb_mul (by norm_num) (by positivity), hlogx] at hdown
  have := logb_101_div_100_le
  rw [abs_le]
  constructor <;> linarith

/-- The level of a representative energy lies in its bin. -/
theorem level_representative {i : Nat} (hi : i < 292) :
    -7000 + 25 * (i : Int) ≤ level (representative i) ∧ level (representative i) < -7000 + 25 * ((i : Int) + 1) := by
  obtain ⟨hmin, hmax⟩ := representative_bounds hi
  obtain ⟨hle, hlt⟩ := level_rounds (by omega) hmax
  obtain ⟨hlo, hhi⟩ := abs_le.1 (logb_representative hi)
  constructor
  · have : ((-7000 + 25 * (i : Int) : Int) : ℝ) ≤ level (representative i) := by push_cast; linarith
    exact_mod_cast this
  · have : (level (representative i) : ℝ) < ((-7000 + 25 * ((i : Int) + 1) : Int) : ℝ) := by push_cast; linarith
    exact_mod_cast this

/-- An energy between two representative energies has its level between the bins of the two. -/
theorem level_between {low high e : Nat} (hlow : low < 292) (hhigh : high < 292) (hlo : representative low ≤ e)
    (hhi : e ≤ representative high) : -7000 + 25 * (low : Int) ≤ level e ∧ level e < -7000 + 25 * ((high : Int) + 1) := by
  have hmin := (representative_bounds hlow).1
  have hmax := (representative_bounds hhigh).2
  exact ⟨(level_representative hlow).1.trans (level_mono_of_pos (by omega) hlo (hhi.trans hmax)),
    (level_mono_of_pos (by omega) hhi hmax).trans_lt (level_representative hhigh).2⟩

/-! ### Sums over the bins from one on (R64, R65) -/

theorem sum_drop_ofFn {n : Nat} (g : Nat) (c : Fin n → Nat) :
    ((List.ofFn c).drop g).sum = ∑ j : Fin n, if g ≤ j.val then c j else 0 := by
  induction n generalizing g with
  | zero => simp
  | succ n ih =>
    rw [List.ofFn_succ, Fin.sum_univ_succ]
    cases g with
    | zero => simp [List.sum_ofFn]
    | succ g => simp [ih]

theorem weightedSum_ofFn {n : Nat} (i : Nat) (c : Fin n → Nat) :
    weightedSum i (List.ofFn c) = ∑ j : Fin n, c j * representative (i + j.val) := by
  induction n generalizing i with
  | zero => rfl
  | succ n ih =>
    have hhead : (if c 0 = 0 then 0 else c 0 * representative i) = c 0 * representative i := by
      split <;> simp [*]
    rw [List.ofFn_succ, Fin.sum_univ_succ, weightedSum, ih, hhead]
    simp [Nat.add_assoc, Nat.add_comm 1]

theorem weightedSum_drop_ofFn {n : Nat} (i g : Nat) (c : Fin n → Nat) :
    weightedSum (i + g) ((List.ofFn c).drop g) = ∑ j : Fin n, if g ≤ j.val then c j * representative (i + j.val) else 0 := by
  induction n generalizing i g with
  | zero => simp [weightedSum]
  | succ n ih =>
    cases g with
    | zero => simpa using weightedSum_ofFn i c
    | succ g =>
      rw [List.ofFn_succ, Fin.sum_univ_succ, List.drop_succ_cons, show i + (g + 1) = i + 1 + g by omega, ih]
      simp [Nat.add_assoc, Nat.add_comm 1]

/-- The blocks in the bins from `g` on (R65). -/
def Histogram.countFrom (h : Histogram) (g : Nat) : Nat := ∑ j : Fin 292, if g ≤ j.val then h.bins[j] else 0

/-- The mean of the representative energies of the blocks in the bins from `g` on, rounded down (R64, R65). -/
def Histogram.meanFrom (h : Histogram) (g : Nat) : Nat :=
  (∑ j : Fin 292, if g ≤ j.val then h.bins[j] * representative j.val else 0) / h.countFrom g

theorem Histogram.countFrom_zero (h : Histogram) : h.countFrom 0 = h.n1 := by
  simp only [Histogram.countFrom, h.n1_eq_sum, Nat.zero_le, if_true]

theorem Histogram.meanFrom_zero (h : Histogram) : h.meanFrom 0 = (∑ j : Fin 292, h.bins[j] * representative j.val) / h.n1 := by
  simp only [Histogram.meanFrom, h.countFrom_zero, Nat.zero_le, if_true]

theorem Histogram.weightedSum_div_sum (h : Histogram) (g : Nat) :
    weightedSum g (h.bins.toList.drop g) / (h.bins.toList.drop g).sum = h.meanFrom g := by
  have hw := weightedSum_drop_ofFn 0 g fun j : Fin 292 => h.bins[j]
  simp only [Nat.zero_add] at hw
  rw [h.toList_bins, hw, sum_drop_ofFn, Histogram.meanFrom, Histogram.countFrom]

/-- The two passes, as means over the bins (R64, R65). -/
theorem Histogram.integrated_eq (h : Histogram) (hn : 1 ≤ h.n1) :
    h.integrated = some (level (h.meanFrom (lowestBin (level (h.meanFrom 0) - 1000)))) := by
  have hne : ¬ h.bins.toList.sum = 0 := Nat.one_le_iff_ne_zero.1 hn
  have hfirst : weightedSum 0 h.bins.toList / h.bins.toList.sum = h.meanFrom 0 := h.weightedSum_div_sum 0
  rw [Histogram.integrated, if_neg hne]
  simp only [hfirst, h.weightedSum_div_sum]

theorem Histogram.one_le_countFrom {h : Histogram} {g : Nat} {i : Fin 292} (hg : g ≤ i.val) (hi : 1 ≤ h.bins[i]) :
    1 ≤ h.countFrom g := by
  have hle := Finset.single_le_sum (f := fun j : Fin 292 => if g ≤ j.val then h.bins[j] else 0) (fun _ _ => Nat.zero_le _)
    (Finset.mem_univ i)
  simp only [if_pos hg] at hle
  exact hi.trans hle

/-- A mean is at most what bounds every energy in it. -/
theorem Histogram.meanFrom_le {h : Histogram} {g m : Nat}
    (hm : ∀ j : Fin 292, g ≤ j.val → 1 ≤ h.bins[j] → representative j.val ≤ m) : h.meanFrom g ≤ m := by
  refine Nat.div_le_of_le_mul ?_
  rw [Histogram.countFrom, Finset.sum_mul]
  refine Finset.sum_le_sum fun j _ => ?_
  split
  · rcases Nat.eq_zero_or_pos h.bins[j] with hj | hj
    · simp [hj]
    · exact Nat.mul_le_mul_left _ (hm j ‹_› hj)
  · simp

/-- A mean is at least what bounds every energy in it from below. -/
theorem Histogram.le_meanFrom {h : Histogram} {g m : Nat} (hn : 1 ≤ h.countFrom g)
    (hm : ∀ j : Fin 292, g ≤ j.val → 1 ≤ h.bins[j] → m ≤ representative j.val) : m ≤ h.meanFrom g := by
  rw [Histogram.meanFrom, Nat.le_div_iff_mul_le hn, Histogram.countFrom, Finset.mul_sum]
  refine Finset.sum_le_sum fun j _ => ?_
  split
  · rcases Nat.eq_zero_or_pos h.bins[j] with hj | hj
    · simp [hj]
    · rw [Nat.mul_comm]
      exact Nat.mul_le_mul_left _ (hm j ‹_› hj)
  · simp

/-- The bins from `g` on that count a block. -/
def Histogram.nonempty (h : Histogram) (g : Nat) : Finset (Fin 292) := {j | g ≤ j.val ∧ 1 ≤ h.bins[j]}

theorem Histogram.mem_nonempty {h : Histogram} {g : Nat} {j : Fin 292} : j ∈ h.nonempty g ↔ g ≤ j.val ∧ 1 ≤ h.bins[j] := by
  simp [Histogram.nonempty]

/-- With blocks in the bins from `g` on, one of those bins is the highest that is not empty. -/
theorem Histogram.exists_top {h : Histogram} {g : Nat} (hn : 1 ≤ h.countFrom g) :
    ∃ top : Fin 292, g ≤ top.val ∧ 1 ≤ h.bins[top] ∧ ∀ j : Fin 292, g ≤ j.val → 1 ≤ h.bins[j] → j ≤ top := by
  obtain ⟨i, -, hi⟩ := Finset.exists_ne_zero_of_sum_ne_zero (Nat.one_le_iff_ne_zero.1 hn)
  obtain ⟨hgi, hbi⟩ := ite_ne_right_iff.1 hi
  obtain ⟨top, htop, hmax⟩ := (h.nonempty g).exists_max_image id
    ⟨i, Histogram.mem_nonempty.2 ⟨hgi, Nat.one_le_iff_ne_zero.2 hbi⟩⟩
  obtain ⟨hgt, hbt⟩ := Histogram.mem_nonempty.1 htop
  exact ⟨top, hgt, hbt, fun j hg hj => hmax j (Histogram.mem_nonempty.2 ⟨hg, hj⟩)⟩

/-- The mean of a run of bins lies between the energies of its lowest and its highest bin that is not empty. -/
theorem Histogram.meanFrom_between {h : Histogram} {g : Nat} (hn : 1 ≤ h.countFrom g) :
    ∃ low high : Fin 292, g ≤ low.val ∧ 1 ≤ h.bins[low] ∧ g ≤ high.val ∧ 1 ≤ h.bins[high] ∧
      representative low.val ≤ h.meanFrom g ∧ h.meanFrom g ≤ representative high.val := by
  obtain ⟨high, hgh, hbh, hmax⟩ := Histogram.exists_top hn
  obtain ⟨low, hlow, hmin⟩ := (h.nonempty g).exists_min_image id ⟨high, Histogram.mem_nonempty.2 ⟨hgh, hbh⟩⟩
  obtain ⟨hgl, hbl⟩ := Histogram.mem_nonempty.1 hlow
  exact ⟨low, high, hgl, hbl, hgh, hbh,
    Histogram.le_meanFrom hn fun j hg hj => representative_mono (hmin j (Histogram.mem_nonempty.2 ⟨hg, hj⟩)) j.isLt,
    Histogram.meanFrom_le fun j hg hj => representative_mono (hmax j hg hj) high.isLt⟩

/-! ### The relative gate (R65) -/

/-- The lowest included bin is the first at or above the relative gate. -/
theorem lowestBin_le_iff (lrel : Int) (g : Nat) : lowestBin lrel ≤ g ↔ lrel ≤ -7000 + 25 * (g : Int) := by
  rw [lowestBin, gateLevel]
  omega

/-- The first pass under the highest bin `top` that is not empty: its level lies at most in that bin, so the gate lies forty bins or more
below. -/
theorem Histogram.level_firstPass {h : Histogram} {top : Fin 292} (htop : 1 ≤ h.bins[top])
    (hmax : ∀ j : Fin 292, 1 ≤ h.bins[j] → j ≤ top) :
    h.meanFrom 0 ≤ representative top.val ∧ level (h.meanFrom 0) < -7000 + 25 * ((top.val : Int) + 1) := by
  have hle : h.meanFrom 0 ≤ representative top.val :=
    Histogram.meanFrom_le fun j _ hj => representative_mono (hmax j hj) top.isLt
  obtain ⟨low, -, -, -, -, -, hlow, -⟩ := Histogram.meanFrom_between (Histogram.one_le_countFrom (Nat.zero_le _) htop)
  exact ⟨hle, (level_between low.isLt top.isLt hlow hle).2⟩

/-- Settles O24: the highest bin that is not empty bounds the first pass, so the gate leaves it to the second. -/
theorem secondPassAlwaysHasBlocks : Obligations.SecondPassAlwaysHasBlocks := by
  refine fun h => ⟨h.n1_eq_sum, fun hn => if_pos hn, fun hn => ?_⟩
  rw [← h.meanFrom_zero]
  obtain ⟨top, -, htop, hmax⟩ := Histogram.exists_top (h.countFrom_zero.symm ▸ hn)
  have hgate : lowestBin (level (h.meanFrom 0) - 1000) ≤ top.val := by
    rw [lowestBin_le_iff]
    linarith [(Histogram.level_firstPass htop fun j => hmax j (Nat.zero_le _)).2]
  have hn2 := Histogram.one_le_countFrom hgate htop
  obtain ⟨low, high, hgl, hbl, hgh, hbh, hlow, hhigh⟩ := Histogram.meanFrom_between hn2
  have hlevel := level_between low.isLt high.isLt hlow hhigh
  refine ⟨lowestBin (level (h.meanFrom 0) - 1000), (lowestBin_le_iff _ _).1 le_rfl, fun g' => (lowestBin_le_iff _ g').2,
    by omega, fun top' htop' hrest => ?_, hn2, ⟨low, high, hgl, hbl, hgh, hbh, hlow, hhigh⟩, h.integrated_eq hn, ?_, ?_⟩
  · obtain ⟨hle, hlt⟩ := Histogram.level_firstPass htop' fun j hj => not_lt.1 fun hlt => absurd (hrest j hlt) (by omega)
    refine ⟨hle, hlt, by linarith, (lowestBin_le_iff _ _).2 (by linarith)⟩
  · exact le_trans (by omega) hlevel.1
  · have := high.isLt
    exact (hlevel.2.trans_le (by omega)).le

end Sys2Proof.Machine

/-! PROOFS. Reading bytes back from a payload (R172): from a place on, words, runs of entries of one size, and packed bits. -/

namespace Sys2Proof.Machine

/-! ### Places -/

theorem byteAt_add (l : List Byte) (a i : Nat) : byteAt l (a + i) = byteAt (l.drop a) i := by
  simp [byteAt]

theorem word16At_add (l : List Byte) (a i : Nat) : word16At l (a + i) = word16At (l.drop a) i := by
  simp only [word16At, Nat.add_assoc, byteAt_add]

theorem word32At_add (l : List Byte) (a i : Nat) : word32At l (a + i) = word32At (l.drop a) i := by
  simp only [word32At, Nat.add_assoc, byteAt_add]

theorem word16At_bytes16 (w : BitVec 16) (l : List Byte) : word16At (bytes16 w ++ l) 0 = w := word16_bytes w

/-- A signed word in its range reads back. -/
theorem toInt_ofInt16 {v : Int} (h1 : -32768 ≤ v) (h2 : v ≤ 32767) : (BitVec.ofInt 16 v).toInt = v := by
  rw [BitVec.toInt_ofInt]
  exact Int.bmod_eq_of_le (by omega) (by omega)

theorem toNat_ofNat16 {n : Nat} (h : n ≤ 65535) : (BitVec.ofNat 16 n).toNat = n := by
  rw [BitVec.toNat_ofNat]
  exact Nat.mod_eq_of_lt (by omega)

/-! ### Runs of entries of one size -/

theorem length_flatMap_size {α : Type} {f : α → List Byte} {n : Nat} (hf : ∀ x, (f x).length = n) (l : List α) :
    (l.flatMap f).length = n * l.length := by
  simp [List.length_flatMap, hf, Nat.mul_comm]

/-- The bytes from the entry `j` on are those of the entries from `j` on. -/
theorem drop_flatMap_size {α : Type} {f : α → List Byte} {n : Nat} (hf : ∀ x, (f x).length = n) (l : List α) (j : Nat) :
    (l.flatMap f).drop (n * j) = (l.drop j).flatMap f := by
  induction l generalizing j with
  | nil => simp
  | cons x xs ih =>
    cases j with
    | zero => simp
    | succ j => rw [List.flatMap_cons, Nat.mul_succ, Nat.add_comm, ← List.drop_drop, List.drop_left' (hf x), ih, List.drop_succ_cons]

/-- The bytes from the entry `j` on begin with those of that entry. -/
theorem drop_flatMap_entry {α : Type} {f : α → List Byte} {n j : Nat} (hf : ∀ x, (f x).length = n) {l : List α} {x : α}
    (hx : l[j]? = some x) : (l.flatMap f).drop (n * j) = f x ++ (l.drop (j + 1)).flatMap f := by
  obtain ⟨hj, rfl⟩ := List.getElem?_eq_some_iff.1 hx
  rw [drop_flatMap_size hf, List.drop_eq_getElem_cons hj, List.flatMap_cons]

/-! ### Packed bits -/

theorem count8_getLsbD {n k : Nat} (hk : k < 8) : (count8 n).getLsbD k = n.testBit k := by
  rw [count8, BitVec.getLsbD_ofNat, decide_eq_true hk, Bool.true_and]

theorem packBits_lt (bs : List Bool) : packBits bs < 2 ^ bs.length := by
  induction bs with
  | nil => simp [packBits]
  | cons b bs ih =>
    have hb := b.toNat_le
    rw [packBits, List.length_cons, pow_succ]
    omega

theorem packBits_testBit (bs : List Bool) (k : Nat) : (packBits bs).testBit k = bs.getD k false := by
  induction bs generalizing k with
  | nil => simp [packBits]
  | cons b bs ih =>
    cases k with
    | zero => cases b <;> simp [packBits, Nat.testBit_zero, Nat.add_mod]
    | succ k =>
      have hhalf : (b.toNat + 2 * packBits bs) / 2 = packBits bs := by
        have hb := b.toNat_lt
        omega
      rw [packBits, Nat.testBit_succ, hhalf, ih, List.getD_cons_succ]

/-- A byte of packed bits gives each of them back. -/
theorem count8_packBits_getLsbD (bs : List Bool) {k : Nat} (hk : k < 8) : (count8 (packBits bs)).getLsbD k = bs.getD k false := by
  rw [count8_getLsbD hk, packBits_testBit]

theorem count8_packBits_lt {bs : List Bool} {n : Nat} (hb : bs.length ≤ n) (hn : n ≤ 8) : (count8 (packBits bs)).toNat < 2 ^ n := by
  have hlt := (packBits_lt bs).trans_le (Nat.pow_le_pow_right two_pos hb)
  rw [toNat_count8 (Nat.le_of_lt_succ (hlt.trans_le (Nat.pow_le_pow_right two_pos hn)))]
  exact hlt

/-- Bits packed below a number give both back. -/
theorem count8_packBits_add {bs : List Bool} {n a : Nat} (hb : bs.length = n) (hn : n ≤ 8) (ha : 2 ^ n * a + 2 ^ n ≤ 256) :
    (∀ k < n, (count8 (packBits bs + 2 ^ n * a)).getLsbD k = bs.getD k false) ∧
      (count8 (packBits bs + 2 ^ n * a)).toNat / 2 ^ n = a := by
  have hlt := packBits_lt bs
  rw [hb] at hlt
  constructor
  · intro k hk
    rw [count8_getLsbD (hk.trans_le hn), Nat.add_comm, Nat.testBit_two_pow_mul_add a hlt, if_pos hk, packBits_testBit]
  · rw [toNat_count8 (by omega), Nat.add_mul_div_left _ _ (by positivity), Nat.div_eq_of_lt hlt, Nat.zero_add]

end Sys2Proof.Machine

/-! PROOFS. The reads of a profile, a histogram, the cue log, the device and the notices (R75, R131, R154, R183, R186, R199): what a
station reads back from their bytes. -/

namespace Sys2Proof.Machine

/-- A read is answered with what its service makes of the state after the hearing, and nothing else changes. -/
theorem Serves.reads {serve : Serve} {code target : Byte} {c : RequestCommand} (hc : Serves serve code c) {s : State} {port : Port}
    {payload bytes : List Byte} {r : Result} (h : s.Ready port) (hp : payload.length ≤ 48)
    (hs : serve port target payload (s.hear port) = { state := s.hear port, result := r, payload := bytes }) :
    ∃ t, exec (c port target payload) s = .next t ∧ s.Refuses t port code target r bytes ∧
      t.conditions = (s.hear port).conditions := by
  obtain ⟨t, ht, hr, hcond⟩ := State.takeMessage_refuses code target h hp hs
  exact ⟨t, ht ▸ hc port target payload s, hr, hcond⟩

/-! ### READ_PROFILE (R131, R186) -/

section Profile
variable (P : Programme) (i : Slot)

theorem Programme.profileReport_drop_fields : (P.profileReport i).drop 1 =
    allFields.flatMap (fun x => signed16 (P.slots[i].get x)) ++ (P.profileReport i).drop 29 := rfl

theorem Programme.profileReport_drop_label : (P.profileReport i).drop 31 = P.slots[i].label.getD [] ++
    bytes32 P.schedule.compareA ++ bytes32 P.schedule.compareB ++ bytes32 P.schedule.increment := rfl

theorem Programme.profileReport_drop_compare : (P.profileReport i).drop (31 + (P.slots[i].label.getD []).length) =
    bytes32 P.schedule.compareA ++ bytes32 P.schedule.compareB ++ bytes32 P.schedule.increment := by
  rw [← List.drop_drop, P.profileReport_drop_label, List.append_assoc, List.append_assoc, List.drop_left, List.append_assoc]

theorem Programme.profileReport_length : (P.profileReport i).length = 43 + (P.slots[i].label.getD []).length := by
  rw [← List.take_append_drop 31 (P.profileReport i), List.length_append, P.profileReport_drop_label]
  simp only [List.length_append]
  show 31 + (_ + 4 + 4 + 4) = _
  omega

/-- The numeric fields stand one after the other from byte 1 on, in the order of R121. -/
theorem Programme.profileReport_field {k : Nat} {x : Field} (hx : allFields[k]? = some x) :
    word16At (P.profileReport i) (1 + 2 * k) = BitVec.ofInt 16 (P.slots[i].get x) := by
  rw [word16At_add, P.profileReport_drop_fields, ← Nat.add_zero (2 * k), word16At_add, List.drop_append,
    drop_flatMap_entry (f := fun x => signed16 (P.slots[i].get x)) (n := 2) (fun _ => rfl) hx, List.append_assoc]
  exact word16At_bytes16 _ _

/-- Every numeric field in the range of a signed word is read back from its place. -/
theorem Programme.profileReport_fields : ∀ x ∈ allFields.zipIdx.map fun y => (1 + 2 * y.2, P.slots[i].get y.1),
    -32768 ≤ x.2 → x.2 ≤ 32767 → (word16At (P.profileReport i) x.1).toInt = x.2 := by
  refine List.forall_mem_map.2 fun y hy hlo hhi => ?_
  rw [P.profileReport_field i (List.mk_mem_zipIdx_iff_getElem?.1 hy)]
  exact toInt_ofInt16 hlo hhi

theorem Programme.profileReport_compare :
    word32At (P.profileReport i) (31 + (P.slots[i].label.getD []).length) = P.schedule.compareA ∧
    word32At (P.profileReport i) (35 + (P.slots[i].label.getD []).length) = P.schedule.compareB ∧
    word32At (P.profileReport i) (39 + (P.slots[i].label.getD []).length) = P.schedule.increment := by
  have hat : ∀ k, word32At (P.profileReport i) (31 + (P.slots[i].label.getD []).length + k) =
      word32At (bytes32 P.schedule.compareA ++ bytes32 P.schedule.compareB ++ bytes32 P.schedule.increment) k := fun k => by
    rw [word32At_add, P.profileReport_drop_compare]
  refine ⟨(hat 0).trans (word32_bytes _), ?_, ?_⟩
  · rw [Nat.add_right_comm 31 4]
    exact (hat 4).trans (word32_bytes _)
  · rw [Nat.add_right_comm 31 8]
    exact (hat 8).trans (word32_bytes _)

/-- What a station reads back from the record of a slot (R131, R186). -/
theorem Programme.profileReport_reads : let bytes := P.profileReport i
    let label := P.slots[i].label.getD []
    (byteAt bytes 29).toNat < 8 ∧ (byteAt bytes 29).getLsbD 0 = decide (P.slots[i].steering = .integrated) ∧
    (byteAt bytes 29).getLsbD 1 = decide (P.inService = 1) ∧ (byteAt bytes 29).getLsbD 2 = P.schedule.enabled ∧
    (label.length ≤ 16 → (byteAt bytes 30).toNat = label.length) ∧ bytes.length = 43 + label.length ∧
    (bytes.drop 31).take label.length = label ∧ word32At bytes (31 + label.length) = P.schedule.compareA ∧
    word32At bytes (35 + label.length) = P.schedule.compareB ∧ word32At bytes (39 + label.length) = P.schedule.increment := by
  refine ⟨count8_packBits_lt (n := 3) le_rfl (by norm_num), count8_packBits_getLsbD _ (k := 0) (by norm_num),
    count8_packBits_getLsbD _ (k := 1) (by norm_num), count8_packBits_getLsbD _ (k := 2) (by norm_num),
    fun hl => toNat_count8 (by omega), P.profileReport_length i, ?_, P.profileReport_compare i⟩
  rw [P.profileReport_drop_label, List.append_assoc, List.append_assoc, List.take_left]

end Profile

theorem serveReadProfile_report {port : Port} {target : Byte} {s : State} {p : Prog} (i : Slot) (h : target.toNat = p.val) :
    serveReadProfile port target [count8 i.val] s = report s ((s.prog p).profileReport i) := by
  rw [serveReadProfile, needSize_eq (n := 1) rfl, needBelow_eq h, byteAt_cons_zero, needBelow_eq (count8_fin (by norm_num) i)]

/-! ### READ_HISTOGRAM (R75, R186) -/

theorem serveReadHistogram_report {port : Port} {target lo hi n : Byte} {s : State} {p : Prog} (h : target.toNat = p.val)
    (hs : (word16 lo hi).toNat ≤ 291) :
    serveReadHistogram port target [lo, hi, n] s =
      { state := s
        result := if binsReturned (word16 lo hi).toNat n.toNat = n.toNat then .ok else .clamped
        payload := [lo, hi, count8 (binsReturned (word16 lo hi).toNat n.toNat)] ++
          (((s.prog p).histogram.bins.toList.drop (word16 lo hi).toNat).take
            (binsReturned (word16 lo hi).toNat n.toNat)).flatMap count16 ++
          count32 (s.prog p).histogram.n1 ++ count32 (s.prog p).histogram.below } := by
  have hstart : count16 (word16 lo hi).toNat = [lo, hi] := by
    rw [count16, BitVec.ofNat_toNat, BitVec.setWidth_eq, bytes16_word16]
  rw [serveReadHistogram, needSize_eq (n := 3) rfl, needBelow_eq h]
  have hle : ¬ 291 < (word16At [lo, hi, n] 0).toNat := not_lt.2 hs
  simp only [hle, if_false, doneClamped, Histogram.report]
  rw [show word16At [lo, hi, n] 0 = word16 lo hi from rfl, show byteAt [lo, hi, n] 2 = n from rfl, hstart]
  simp [bne_iff_ne, ite_not]

/-- The number of bins that a read returns (R75). -/
theorem binsReturned_spec {start : Nat} (hs : start ≤ 291) (n : Nat) :
    1 ≤ binsReturned start n ∧ binsReturned start n ≤ 16 ∧ start + binsReturned start n ≤ 292 ∧
      (1 ≤ n → n ≤ 16 → start + n ≤ 292 → binsReturned start n = n) ∧ (n = 0 → binsReturned start n = 1) ∧
      (16 < n ∨ 292 < start + n → binsReturned start n = 16 ∨ start + binsReturned start n = 292) := by
  unfold binsReturned
  omega

/-! ### READ_CUE_LOG (R154) -/

/-- The number in the first byte of a cue log entry. -/
def CueEntry.flags (e : CueEntry) : Nat :=
  e.line.val + 4 * (decide (e.kind = .released)).toNat + 8 * e.action.code + 32 * e.gap.toNat + 64 * e.offset.isSome.toNat

theorem CueEntry.bytes_eq (e : CueEntry) :
    e.bytes = [count8 e.flags] ++ bytes32 e.counter ++ count16 (e.offset.getD 0 + 8192 * e.programme.val) := rfl

theorem CueAction.code_le (a : CueAction) : a.code ≤ 3 := by cases a <;> decide

/-- The first byte of an entry gives its line, kind, action, gap mark and the presence of its offset back, and its bit 7 is 0. -/
theorem CueEntry.count8_flags (e : CueEntry) :
    (count8 e.flags).toNat % 4 = e.line.val ∧ (count8 e.flags).getLsbD 2 = decide (e.kind = .released) ∧
    (count8 e.flags).toNat / 8 % 4 = e.action.code ∧ (count8 e.flags).getLsbD 5 = e.gap ∧
    (count8 e.flags).getLsbD 6 = e.offset.isSome ∧ (count8 e.flags).getLsbD 7 = false := by
  have hbit : ∀ {k : Nat} {b : Bool}, k < 8 → e.flags / 2 ^ k % 2 = b.toNat → (count8 e.flags).getLsbD k = b := fun hk hb => by
    rw [count8_getLsbD hk, Nat.testBit_eq_decide_div_mod_eq, hb]
    simp
  have hline := e.line.isLt
  have hkind := (decide (e.kind = .released)).toNat_le
  have haction := e.action.code_le
  have hgap := e.gap.toNat_le
  have hoffset := e.offset.isSome.toNat_le
  have hflags : e.flags ≤ 255 := by
    unfold CueEntry.flags
    omega
  rw [toNat_count8 hflags]
  refine ⟨?_, hbit (by norm_num) ?_, ?_, hbit (by norm_num) ?_, hbit (by norm_num) ?_, hbit (b := false) (by norm_num) ?_⟩
  all_goals
    simp only [CueEntry.flags, Bool.toNat_false]
    omega

theorem ResetKind.code_le (k : ResetKind) : k.code ≤ 2 := by cases k <;> decide

/-- The bytes of a cue log (R154). -/
def State.cueLogReport (s : State) : List Byte :=
  [count8 s.cueLog.length, count8 s.gapMark.toNat] ++ s.cueLog.flatMap CueEntry.bytes

theorem State.cueLogReport_drop {s : State} {j : Nat} {e : CueEntry} (he : s.cueLog[j]? = some e) :
    s.cueLogReport.drop (2 + 7 * j) = e.bytes ++ (s.cueLog.drop (j + 1)).flatMap CueEntry.bytes := by
  rw [← List.drop_drop]
  exact drop_flatMap_entry (f := CueEntry.bytes) (n := 7) (fun _ => rfl) he

theorem State.cueLogReport_hear (s : State) (port : Port) : (s.hear port).cueLogReport = s.cueLogReport := rfl

theorem serveReadCueLog_report (port : Port) (target : Byte) (s : State) :
    serveReadCueLog port target [] s = report s s.cueLogReport := needSize_eq rfl _ _

/-- The three parts of entry `j` where a station finds them. -/
theorem State.cueLogReport_entry {s : State} {j : Nat} {e : CueEntry} (he : s.cueLog[j]? = some e) :
    byteAt s.cueLogReport (2 + 7 * j) = count8 e.flags ∧ word32At s.cueLogReport (3 + 7 * j) = e.counter ∧
    word16At s.cueLogReport (7 + 7 * j) = BitVec.ofNat 16 (e.offset.getD 0 + 8192 * e.programme.val) := by
  have hdrop := State.cueLogReport_drop he
  refine ⟨?_, ?_, ?_⟩
  · rw [← Nat.add_zero (2 + 7 * j), byteAt_add, hdrop, e.bytes_eq]
    rfl
  · rw [Nat.add_right_comm 2 1, word32At_add, hdrop]
    exact word32_bytes _
  · rw [Nat.add_right_comm 2 5, word16At_add, hdrop]
    exact word16_bytes _

theorem State.cueLogReport_length (s : State) : s.cueLogReport.length = 2 + 7 * s.cueLog.length := by
  rw [State.cueLogReport, List.length_append, length_flatMap_size (n := 7) (fun _ => rfl)]
  rfl

/-- What a station reads back from entry `j` of the cue log (R154). -/
theorem State.cueLogReport_reads {s : State} {j : Nat} {e : CueEntry} (he : s.cueLog[j]? = some e) :
    let b := byteAt s.cueLogReport (2 + 7 * j)
    let w := (word16At s.cueLogReport (7 + 7 * j)).toNat
    b.toNat % 4 = e.line.val ∧ b.getLsbD 2 = decide (e.kind = .released) ∧ b.toNat / 8 % 4 = e.action.code ∧
    b.getLsbD 5 = e.gap ∧ b.getLsbD 6 = e.offset.isSome ∧ b.getLsbD 7 = false ∧
    word32At s.cueLogReport (3 + 7 * j) = e.counter ∧ (e.offset = none → w = 8192 * e.programme.val) ∧
    ∀ o, e.offset = some o → o ≤ 4799 → w % 8192 = o ∧ w / 8192 = e.programme.val := by
  obtain ⟨hflags, hcounter, hword⟩ := State.cueLogReport_entry he
  obtain ⟨hline, hkind, haction, hgap, hoffset, hzero⟩ := e.count8_flags
  have hprogramme := e.programme.isLt
  simp only [hflags, hcounter, hword]
  refine ⟨hline, hkind, haction, hgap, hoffset, hzero, trivial, fun hnone => ?_, fun o hsome ho => ?_⟩
  · rw [hnone, Option.getD_none, toNat_ofNat16 (by omega), Nat.zero_add]
  · rw [hsome, Option.getD_some, toNat_ofNat16 (by omega)]
    omega

/-! ### READ_DEVICE (R183) -/

/-- The sixteen bytes of the scan table. -/
def scanBytes (table : List ScanEntry) : List Byte := table.map scanEntryByte ++ List.replicate (16 - table.length) 0xFF

theorem scanBytes_length {table : List ScanEntry} (h : table.length ≤ 16) : (scanBytes table).length = 16 := by
  simp [scanBytes, h]

theorem byteAt_scanBytes {table : List ScanEntry} {j : Nat} (hj : j < 16) :
    byteAt (scanBytes table) j = (match table[j]? with | some (some p) => count8 p.val | _ => 0xFF) := by
  rw [byteAt, scanBytes, List.getD_eq_getElem?_getD]
  by_cases hlt : j < table.length
  · rw [List.getElem?_append_left (by simpa using hlt), List.getElem?_map, List.getElem?_eq_getElem hlt]
    cases table[j] <;> rfl
  · rw [List.getElem?_append_right (by simpa using hlt), List.getElem?_eq_none (not_lt.1 hlt), List.length_map,
      List.getElem?_replicate_of_lt (by omega)]
    rfl

/-- The twenty bytes after the scan table. -/
def State.deviceRest (s : State) : List Byte :=
  [count8 s.scan.next] ++ count16 s.scan.reload ++
  [count8 s.clockLost.toNat, count8 (packBits s.links.toList)] ++ allLines.flatMap (fun l => (s.cue l).bytes) ++
  [count8 (packBits (allPorts.map fun p => (s.port p).isAbsent)),
   count8 (packBits (allPorts.map fun p => (s.port p).access = .readOnly)), stationByte (s.holder deviceRecord)]

theorem State.deviceReport_eq (s : State) : s.deviceReport =
    [count8 s.record.kind.code, stationByte s.record.station, count8 s.scan.table.length] ++
      (scanBytes s.scan.table ++ s.deviceRest) := by
  simp only [State.deviceReport, State.deviceRest, scanBytes, List.append_assoc]

theorem State.deviceReport_drop {s : State} (h : s.scan.table.length ≤ 16) : s.deviceReport.drop 19 = s.deviceRest := by
  rw [s.deviceReport_eq, show (19 : Nat) = 3 + 16 from rfl, ← List.drop_drop]
  exact List.drop_left' (scanBytes_length h)

theorem State.deviceReport_scan {s : State} (h : s.scan.table.length ≤ 16) {j : Nat} (hj : j < 16) :
    byteAt s.deviceReport (3 + j) = (match s.scan.table[j]? with | some (some p) => count8 p.val | _ => 0xFF) := by
  rw [byteAt_add, s.deviceReport_eq]
  exact (List.getD_append (scanBytes s.scan.table) _ _ _ (by rwa [scanBytes_length h])).trans (byteAt_scanBytes hj)

theorem State.deviceReport_length {s : State} (h : s.scan.table.length ≤ 16) : s.deviceReport.length = 39 := by
  rw [s.deviceReport_eq, List.length_append, List.length_append, scanBytes_length h]
  rfl

/-- What stands in the twenty bytes after the scan table, at its place in the whole record. -/
theorem State.deviceReport_rest {s : State} (h : s.scan.table.length ≤ 16) (k : Nat) :
    byteAt s.deviceReport (19 + k) = byteAt s.deviceRest k := by
  rw [byteAt_add, State.deviceReport_drop h]

theorem State.deviceReport_reload {s : State} (h : s.scan.table.length ≤ 16) :
    word16At s.deviceReport 20 = BitVec.ofNat 16 s.scan.reload := by
  rw [show 20 = 19 + 1 from rfl, word16At_add, State.deviceReport_drop h]
  exact word16_bytes _

/-- The three bytes of a cue line, at their place. -/
theorem State.deviceReport_cue {s : State} (h : s.scan.table.length ≤ 16) (l : CueLine) :
    byteAt s.deviceReport (24 + 3 * l.val) = byteAt (s.cue l).bytes 0 ∧
    byteAt s.deviceReport (25 + 3 * l.val) = count8 (s.cue l).config.programme.val ∧
    byteAt s.deviceReport (26 + 3 * l.val) = count8 (s.cue l).config.width := by
  have hline := drop_flatMap_entry (f := fun l => (s.cue l).bytes) (n := 3) (fun _ => rfl)
    (show allLines[l.val]? = some l by revert l; decide)
  have hdrop : ∃ rest, s.deviceReport.drop (24 + 3 * l.val) = (s.cue l).bytes ++ rest := by
    rw [show 24 + 3 * l.val = 19 + (5 + 3 * l.val) by omega, ← List.drop_drop, ← List.drop_drop, State.deviceReport_drop h]
    show ∃ rest, (allLines.flatMap (fun l => (s.cue l).bytes) ++ _).drop (3 * l.val) = _
    rw [List.drop_append, hline, List.append_assoc]
    exact ⟨_, rfl⟩
  obtain ⟨rest, hrest⟩ := hdrop
  have hat : ∀ k, byteAt s.deviceReport (24 + 3 * l.val + k) = byteAt ((s.cue l).bytes ++ rest) k := fun k => by
    rw [byteAt_add, hrest]
  refine ⟨hat 0, ?_, ?_⟩
  · rw [Nat.add_right_comm 24 1]
    exact hat 1
  · rw [Nat.add_right_comm 24 2]
    exact hat 2

/-- The first byte of a cue line gives its flags and its action back (R183). -/
theorem CueState.bytes_flags (c : CueState) :
    (byteAt c.bytes 0).getLsbD 0 = c.config.enabled ∧
    (byteAt c.bytes 0).getLsbD 1 = decide (c.config.polarity = .activeLow) ∧
    (byteAt c.bytes 0).getLsbD 2 = c.config.captureRelease ∧ (byteAt c.bytes 0).getLsbD 3 = c.asserted ∧
    (byteAt c.bytes 0).toNat / 16 = c.config.action.code := by
  have haction := c.config.action.code_le
  obtain ⟨hbits, hcode⟩ := count8_packBits_add
    (bs := [c.config.enabled, decide (c.config.polarity = .activeLow), c.config.captureRelease, c.asserted])
    (n := 4) (a := c.config.action.code) rfl (by norm_num) (by omega)
  exact ⟨hbits 0 (by norm_num), hbits 1 (by norm_num), hbits 2 (by norm_num), hbits 3 (by norm_num), hcode⟩

theorem State.getD_links (s : State) (k : LinkFlag) : s.links.toList.getD k.val false = s.links[k] := by
  rw [List.getD_eq_getElem?_getD, List.getElem?_eq_getElem (by simp)]
  rfl

theorem allPorts_getD (f : Port → Bool) (p : Port) : (allPorts.map f).getD p.val false = f p := by
  match p with
  | 0 => rfl
  | 1 => rfl
  | 2 => rfl

theorem PortState.isAbsent_iff (P : PortState) : P.isAbsent = true ↔ P.presence = .absent := by
  cases h : P.presence <;> simp [PortState.isAbsent, h]

/-- Once a port is heard, the ABSENT ports are the others that were (R165, R169). -/
theorem State.isAbsent_hear (s : State) (port p : Port) :
    ((s.hear port).port p).isAbsent = decide (p ≠ port ∧ (s.port p).presence = .absent) := by
  rw [State.port_hear, Bool.eq_iff_iff, decide_eq_true_iff, PortState.isAbsent_iff]
  by_cases hp : p = port <;> simp [hp]

/-- The cue line `l` in the device record (R183). -/
theorem State.deviceReport_cueReads {s : State} (h : s.scan.table.length ≤ 16) (l : CueLine) : let c := s.cue l
    let b := byteAt s.deviceReport (24 + 3 * l.val)
    b.getLsbD 0 = c.config.enabled ∧ b.getLsbD 1 = decide (c.config.polarity = .activeLow) ∧
    b.getLsbD 2 = c.config.captureRelease ∧ b.getLsbD 3 = c.asserted ∧ b.toNat / 16 = c.config.action.code ∧
    (byteAt s.deviceReport (25 + 3 * l.val)).toNat = c.config.programme.val ∧
    (c.config.width ≤ 255 → (byteAt s.deviceReport (26 + 3 * l.val)).toNat = c.config.width) := by
  obtain ⟨hflags, hprogramme, hwidth⟩ := State.deviceReport_cue h l
  obtain ⟨henabled, hpolarity, hcapture, hasserted, haction⟩ := (s.cue l).bytes_flags
  simp only [hflags, hprogramme, hwidth]
  exact ⟨henabled, hpolarity, hcapture, hasserted, haction, count8_fin (by norm_num) _, fun hw => toNat_count8 hw⟩

/-- The link flags in the device record, and its bit 7 (R183). -/
theorem State.deviceReport_links {s : State} (h : s.scan.table.length ≤ 16) :
    (∀ k : LinkFlag, (byteAt s.deviceReport 23).getLsbD k.val = s.links[k]) ∧ (byteAt s.deviceReport 23).getLsbD 7 = false := by
  rw [State.deviceReport_rest h 4]
  exact ⟨fun k => (count8_packBits_getLsbD _ (by omega)).trans (s.getD_links k),
    (count8_packBits_getLsbD _ (by norm_num)).trans (List.getD_eq_default _ _ (Vector.length_toList (xs := s.links)).le)⟩

/-- The two bytes of port bits in the device record (R183). -/
theorem State.deviceReport_ports {s : State} (h : s.scan.table.length ≤ 16) :
    (byteAt s.deviceReport 36).toNat < 8 ∧ (byteAt s.deviceReport 37).toNat < 8 ∧
    ∀ p : Port, (byteAt s.deviceReport 36).getLsbD p.val = (s.port p).isAbsent ∧
      (byteAt s.deviceReport 37).getLsbD p.val = decide ((s.port p).access = .readOnly) := by
  rw [State.deviceReport_rest h 17, State.deviceReport_rest h 18]
  exact ⟨count8_packBits_lt (n := 3) le_rfl (by norm_num), count8_packBits_lt (n := 3) le_rfl (by norm_num), fun p =>
    ⟨(count8_packBits_getLsbD _ (by omega)).trans (allPorts_getD _ p),
      (count8_packBits_getLsbD _ (by omega)).trans (allPorts_getD _ p)⟩⟩

theorem serveReadDevice_report (port : Port) (target : Byte) (s : State) :
    serveReadDevice port target [] s = report s s.deviceReport := needSize_eq rfl _ _

/-! ### READ_NOTICES (R190, R199) -/

theorem serveReadNotices_report (port : Port) (target : Byte) (s : State) : serveReadNotices port target [] s =
    report s (setBytes (s.notice port).mask ++ setBytes (s.notice port).modes ++ setBytes (s.notice port).pending ++
      setBytes s.conditions) := needSize_eq rfl _ _

/-- The six conditions stand at their numbers, and nothing at the numbers of the events (R190). -/
theorem State.conditions_numbers (s : State) :
    (∀ n ∈ [0, 4, 5, 7, 8, 9, 12], s.conditions.getLsbD n = false) ∧ s.conditions.getLsbD 1 = s.clockLost ∧
    s.conditions.getLsbD 2 = s.anyWarn ∧ s.conditions.getLsbD 3 = s.anyFault ∧
    s.conditions.getLsbD 6 = decide (4 ≤ s.cueLog.length) ∧ s.conditions.getLsbD 10 = s.anyAbsent ∧
    s.conditions.getLsbD 11 = s.anyHeavy := by
  simp only [s.conditions_getLsbD]
  simp

theorem State.clockLost_iff (s : State) : s.clockLost = true ↔ ∀ n, s.monitor ≠ .present n := by
  cases h : s.monitor <;> simp [State.clockLost, h]

theorem State.anyWarn_iff (s : State) :
    s.anyWarn = true ↔ ∃ p, (s.prog p).deviation = .warn ∨ (s.prog p).deviation = .fault := by
  have hwarn : ∀ d : Deviation, d ≠ .normal ↔ d = .warn ∨ d = .fault := fun d => by cases d <;> decide
  simp [State.anyWarn, mem_allProgs, hwarn]

theorem State.anyFault_iff (s : State) : s.anyFault = true ↔ ∃ p, (s.prog p).deviation = .fault := by
  simp [State.anyFault, mem_allProgs]

theorem State.anyHeavy_iff (s : State) : s.anyHeavy = true ↔
    ∃ p, ((s.prog p).mode = .measure ∨ (s.prog p).mode = .active) ∧ 600 * 48 < (s.prog p).out.reduction := by
  have hmode : ∀ m : Mode, m ≠ .off ↔ m = .measure ∨ m = .active := fun m => by cases m <;> decide
  simp [State.anyHeavy, Programme.heavy, mem_allProgs, hmode]

theorem State.anyAbsent_hear_iff (s : State) (port : Port) :
    (s.hear port).anyAbsent = true ↔ ∃ q, q ≠ port ∧ (s.port q).presence = .absent := by
  have hall : ∀ q, q ∈ allPorts := by decide
  simp only [State.anyAbsent, List.any_eq_true, State.isAbsent_hear, decide_eq_true_iff, hall, true_and]

/-- The notice sets that a read leaves are those that its hearing leaves. -/
theorem State.Refuses.notice_eq {s t : State} {port : Port} {code target : Byte} {r : Result} {bytes : List Byte}
    (h : s.Refuses t port code target r bytes) (hc : t.conditions = (s.hear port).conditions) (q : Port) :
    t.notice q = (s.hear port).notice q := by
  obtain ⟨⟨-, hn⟩, -⟩ := h
  rw [hn q, hc, State.notice_hear]
  simp only [BitVec.ofNat_eq_ofNat, BitVec.and_zero, BitVec.or_zero]

/-! ### The five reads -/

/-- Settles O34: each read reports its record, and each value of a record stands at its place. -/
theorem readsReportTheState : Obligations.ReadsReportTheState := by
  intro s port target hready
  refine ⟨fun p i ht => ?profile, fun p lo hi n ht hstart => ?histogram, ?cueLog, ?device, ?notices⟩
  case profile =>
    have hserves : Serves serveReadProfile 0x02 .readProfile := fun _ _ _ _ => rfl
    obtain ⟨t, hexec, hr, -⟩ := hserves.reads hready (by simp) (serveReadProfile_report i ht)
    rw [State.prog_hear] at hr
    exact ⟨t, _, hexec, hr, count8_fin (by norm_num) i, Programme.profileReport_fields _ _, Programme.profileReport_reads _ _⟩
  case histogram =>
    have hserves : Serves serveReadHistogram 0x03 .readHistogram := fun _ _ _ _ => rfl
    obtain ⟨t, hexec, hr, -⟩ := hserves.reads hready (by simp) (serveReadHistogram_report ht hstart)
    obtain ⟨hpos, hmax, hend, hsame, hzero, hclamped⟩ := binsReturned_spec hstart n.toNat
    exact ⟨t, _, hpos, hmax, hend, hsame, hzero, hclamped, hexec, hr⟩
  case cueLog =>
    have hserves : Serves serveReadCueLog 0x04 .readCueLog := fun _ _ _ _ => rfl
    obtain ⟨t, hexec, hr, -⟩ := hserves.reads hready (by simp) (serveReadCueLog_report port target (s.hear port))
    rw [State.cueLogReport_hear] at hr
    exact ⟨t, _, hexec, hr, s.cueLogReport_length, fun hl => toNat_count8 hl,
      toNat_count8 (s.gapMark.toNat_le.trans (by norm_num)), fun j e he => State.cueLogReport_reads he⟩
  case device =>
    have hserves : Serves serveReadDevice 0x05 .readDevice := fun _ _ _ _ => rfl
    obtain ⟨t, hexec, hr, -⟩ := hserves.reads hready (by simp) (serveReadDevice_report port target (s.hear port))
    refine ⟨t, _, hexec, hr, toNat_count8 (s.record.kind.code_le.trans (by norm_num)), rfl,
      fun (hlen : (s.hear port).scan.table.length ≤ 16) => ?_⟩
    have hrest := State.deviceReport_rest hlen
    obtain ⟨hlinks, hspare⟩ := State.deviceReport_links hlen
    obtain ⟨habsent, haccess, hports⟩ := State.deviceReport_ports hlen
    simp only [State.isAbsent_hear, State.access_hear] at hports
    refine ⟨State.deviceReport_length hlen, toNat_count8 (hlen.trans (by norm_num)), fun j => State.deviceReport_scan hlen,
      fun hn => ?_, fun hn => ?_, ?_, hlinks, hspare, State.deviceReport_cueReads hlen, habsent, haccess, hports, hrest 19⟩
    · exact (congrArg BitVec.toNat (hrest 0)).trans (toNat_count8 hn)
    · exact (congrArg BitVec.toNat (State.deviceReport_reload hlen)).trans (toNat_ofNat16 hn)
    · exact (congrArg BitVec.toNat (hrest 3)).trans (toNat_count8 (s.clockLost.toNat_le.trans (by norm_num)))
  case notices =>
    have hserves : Serves serveReadNotices 0x06 .readNotices := fun _ _ _ _ => rfl
    obtain ⟨t, hexec, hr, hc⟩ := hserves.reads hready (by simp) (serveReadNotices_report port target (s.hear port))
    refine ⟨t, hexec, ?_, ?_⟩
    · rw [hr.notice_eq hc, hc]
      exact hr
    · obtain ⟨hnone, hclock, hwarn, hfault, hbacklog, habsent, hheavy⟩ := (s.hear port).conditions_numbers
      rw [hc, hclock, hwarn, hfault, hbacklog, habsent, hheavy]
      exact ⟨hnone, s.clockLost_iff, s.anyWarn_iff, s.anyFault_iff, decide_eq_true_iff, s.anyAbsent_hear_iff port, s.anyHeavy_iff⟩

end Sys2Proof.Machine

/-! PROOFS. The soundness of the gains through one move of a gain, one change of bounds and one run of the gain law (R81 to R95). -/

namespace Sys2Proof.Machine

/-! ### One programme -/

/-- `g` lies in the bounds of the slot in service (R85). -/
def Programme.Admits (P : Programme) (g : Int) : Prop := P.profile.gainMin ≤ g ∧ g ≤ P.profile.gainMax

/-- Slots, Gd and trim in their ranges, whatever the gain (R81, R121, R132). -/
structure Programme.Ranged (P : Programme) : Prop where
  slots : ∀ i : Slot, P.slots[i].InRange
  gd : ∀ g, P.gd = some g → -2400 ≤ g ∧ g ≤ 1200
  trim : -1200 ≤ P.trim ∧ P.trim ≤ 1200

/-- A programme's own part of `State.GainsSound`. -/
structure Programme.GainSound (P : Programme) : Prop extends P.Ranged where
  bounds : P.Admits P.gcur
  measure : P.mode = .measure → P.gcur = 0

/-- What the soundness of the gains reads of a programme stands. -/
structure Programme.SameGains (P Q : Programme) : Prop where
  mode : Q.mode = P.mode
  gcur : Q.gcur = P.gcur
  gd : Q.gd = P.gd
  trim : Q.trim = P.trim
  slots : Q.slots = P.slots
  inService : Q.inService = P.inService

theorem Programme.SameGains.refl (P : Programme) : P.SameGains P := ⟨rfl, rfl, rfl, rfl, rfl, rfl⟩

theorem Programme.SameGains.trans {P Q R : Programme} (h : P.SameGains Q) (k : Q.SameGains R) : P.SameGains R :=
  ⟨k.mode.trans h.mode, k.gcur.trans h.gcur, k.gd.trans h.gd, k.trim.trans h.trim, k.slots.trans h.slots,
    k.inService.trans h.inService⟩

/-- Every slot admits the gain 0 (R121). -/
theorem Profile.InRange.admits_zero {f : Profile} (h : f.InRange) : f.gainMin ≤ 0 ∧ 0 ≤ f.gainMax := by
  obtain ⟨-, -, -, -, -, lo, hi, -⟩ := h
  exact ⟨lo, hi⟩

/-- The bounds of every slot lie in -2400..1200 (R121). -/
theorem Profile.InRange.bounds {f : Profile} (h : f.InRange) : -2400 ≤ f.gainMin ∧ f.gainMax ≤ 1200 := by
  obtain ⟨-, -, -, -, lo, -, -, hi, -⟩ := h
  exact ⟨lo, hi⟩

namespace Programme.Ranged
variable {P : Programme}

theorem profile (h : P.Ranged) : P.profile.InRange := h.slots _

theorem admits_zero (h : P.Ranged) : P.Admits 0 := h.profile.admits_zero

theorem admits_limit (h : P.Ranged) (g : Int) : P.Admits (limit P.profile.gainMin P.profile.gainMax g) :=
  limit_bounds (h.profile.admits_zero.1.trans h.profile.admits_zero.2) g

/-- Outside MEASURE a gain that the slot admits is sound. -/
theorem moveGain (h : P.Ranged) {g : Int} (hg : P.Admits g) (hm : P.mode ≠ .measure) : (P.moveGain g).GainSound := by
  rw [P.moveGain_frame g, P.moveGain_gcur g]
  exact { h with bounds := hg, measure := fun hn => absurd hn hm }

/-- A desired gain that is stored lies in the bounds of its slot (R81). -/
theorem storeGd (h : P.Ranged) (r : Int) : { P with gd := some (P.desiredGain r) : Programme }.Ranged where
  slots := h.slots
  gd g hg := by
    obtain rfl := Option.some.inj hg
    obtain ⟨lo, hi⟩ := h.admits_limit (P.profile.target - r + P.trim)
    exact ⟨h.profile.bounds.1.trans lo, hi.trans h.profile.bounds.2⟩
  trim := h.trim

end Programme.Ranged

theorem Programme.GainSound.of_same {P Q : Programme} (h : P.GainSound) (k : P.SameGains Q) : Q.GainSound where
  slots i := by rw [k.slots]; exact h.slots i
  gd g hg := h.gd g (k.gd ▸ hg)
  trim := by rw [k.trim]; exact h.trim
  bounds := by
    simp only [Programme.Admits, Programme.profile, k.slots, k.inService, k.gcur]
    exact h.bounds
  measure hm := by rw [k.gcur]; exact h.measure (k.mode ▸ hm)

theorem Programme.SameGains.supervise (P : Programme) : P.SameGains P.supervise := by
  rw [P.supervise_frame]
  exact ⟨rfl, rfl, rfl, rfl, rfl, rfl⟩

theorem Programme.SameGains.consume (P : Programme) : P.SameGains P.consume := by
  rw [P.consume_frame]
  exact ⟨rfl, rfl, rfl, rfl, rfl, rfl⟩

theorem Programme.SameGains.frame (P : Programme) (x : Pair) : P.SameGains (P.frame x).1 := by
  unfold Programme.frame
  split <;> exact ⟨rfl, rfl, rfl, rfl, rfl, rfl⟩

/-! ### The state -/

/-- The ACTIVE members of each group have one gain (R85, R86). -/
def State.OneGain (s : State) : Prop := ∀ p q, (s.prog p).mode = .active → (s.prog q).mode = .active →
  s.sameGroup p q = true → (s.prog p).gcur = (s.prog q).gcur

theorem State.gainsSound_iff (s : State) : s.GainsSound ↔ (∀ p, (s.prog p).GainSound) ∧ s.OneGain := by
  refine and_congr_left fun _ => forall_congr' fun p => ⟨?_, ?_⟩
  · rintro ⟨slots, lo, hi, measure, gd, trim⟩
    exact { slots, gd, trim, bounds := ⟨lo, hi⟩, measure }
  · rintro ⟨⟨slots, gd, trim⟩, ⟨lo, hi⟩, measure⟩
    exact ⟨slots, lo, hi, measure, gd, trim⟩

/-- Between `s` and `t` nothing that the soundness of the gains reads has changed. -/
structure State.GainsStill (s t : State) : Prop where
  links : t.links = s.links
  progs : s.Between Programme.SameGains t

namespace State.GainsStill
variable {s t : State}

theorem of_eq (hp : t.progs = s.progs) (hl : t.links = s.links) : s.GainsStill t :=
  ⟨hl, fun p => by rw [State.prog, State.prog, hp]; exact .refl _⟩

theorem mapProgs {f : Prog → Programme → Programme} (hf : ∀ p, (s.prog p).SameGains (f p (s.prog p))) :
    s.GainsStill (s.mapProgs f) := ⟨rfl, fun p => by rw [State.prog_mapProgs]; exact hf p⟩

theorem onProg {f : Programme → Programme} (p : Prog) (hf : ∀ P : Programme, P.SameGains (f P)) : s.GainsStill (s.onProg p f) :=
  ⟨rfl, s.between_onProg .refl hf p⟩

end State.GainsStill

namespace State.GainsSound
variable {s t : State}

theorem prog (h : s.GainsSound) (p : Prog) : (s.prog p).GainSound := (s.gainsSound_iff.1 h).1 p

theorem oneGain (h : s.GainsSound) : s.OneGain := (s.gainsSound_iff.1 h).2

theorem still (h : s.GainsSound) (k : s.GainsStill t) : t.GainsSound := by
  refine t.gainsSound_iff.2 ⟨fun p => (h.prog p).of_same (k.progs p), fun p q hp hq hs => ?_⟩
  rw [(k.progs p).mode] at hp
  rw [(k.progs q).mode] at hq
  rw [State.sameGroup_congr k.links] at hs
  rw [(k.progs p).gcur, (k.progs q).gcur]
  exact h.oneGain p q hp hq hs

theorem of_eq (h : s.GainsSound) (hp : t.progs = s.progs) (hl : t.links = s.links) : t.GainsSound := h.still (.of_eq hp hl)

/-- One programme rewritten, where an ACTIVE result was ACTIVE before and has its gain. -/
theorem onProg (h : s.GainsSound) {p : Prog} {f : Programme → Programme} (hf : (f (s.prog p)).GainSound)
    (ha : (f (s.prog p)).mode = .active → (s.prog p).mode = .active ∧ (f (s.prog p)).gcur = (s.prog p).gcur) :
    (s.onProg p f).GainsSound := by
  have hactive : ∀ q, ((s.onProg p f).prog q).mode = .active →
      (s.prog q).mode = .active ∧ ((s.onProg p f).prog q).gcur = (s.prog q).gcur := fun q hq => by
    rw [State.prog_onProg] at hq ⊢
    by_cases e : q = p
    · subst e
      rw [if_pos rfl] at hq ⊢
      exact ha hq
    · rw [if_neg e] at hq ⊢
      exact ⟨hq, rfl⟩
  refine State.gainsSound_iff _ |>.2 ⟨fun q => ?_, fun q r hq hr hs => ?_⟩
  · rw [State.prog_onProg]
    split
    · rename_i e
      exact e ▸ hf
    · exact h.prog q
  · obtain ⟨hqa, hqg⟩ := hactive q hq
    obtain ⟨hra, hrg⟩ := hactive r hr
    rw [hqg, hrg]
    exact h.oneGain q r hqa hra hs

end State.GainsSound

/-! ### The moves of a group (R89, R91, R94) -/

/-- The gains are sound but for those of the ACTIVE members of the group of `p`: these a move of the group sets. -/
structure State.SoundOutside (u : State) (p : Prog) : Prop where
  ranged : ∀ q, (u.prog q).Ranged
  outside : ∀ q, q ∉ u.activeGroup p → (u.prog q).GainSound
  oneGain : ∀ q r, q ∉ u.activeGroup p → (u.prog q).mode = .active → (u.prog r).mode = .active →
    u.sameGroup q r = true → (u.prog q).gcur = (u.prog r).gcur

theorem State.GainsSound.soundOutside {s : State} (h : s.GainsSound) (p : Prog) : s.SoundOutside p :=
  ⟨fun q => (h.prog q).toRanged, fun q _ => h.prog q, fun q r _ => h.oneGain q r⟩

/-- A programme that is ACTIVE once rewritten may break with its group alone. -/
theorem State.GainsSound.soundOutside_onProg {s : State} (h : s.GainsSound) {p : Prog} {f : Programme → Programme}
    (hf : (f (s.prog p)).Ranged) (ha : (f (s.prog p)).mode = .active) : (s.onProg p f).SoundOutside p := by
  have hself : (s.onProg p f).prog p = f (s.prog p) := by rw [State.prog_onProg, if_pos rfl]
  have hother : ∀ q, q ≠ p → (s.onProg p f).prog q = s.prog q := fun q hq => by rw [State.prog_onProg, if_neg hq]
  have hmem : ∀ q, (s.onProg p f).sameGroup p q = true → ((s.onProg p f).prog q).mode = .active →
      q ∈ (s.onProg p f).activeGroup p := fun q hs hq => (State.mem_activeGroup ..).2 ⟨hs, hq⟩
  have hp : p ∈ (s.onProg p f).activeGroup p := hmem p (State.sameGroup_refl _ p) (hself ▸ ha)
  refine ⟨fun q => ?_, fun q hq => ?_, fun q r hq hqa hra hs => ?_⟩
  · by_cases e : q = p
    · rw [e, hself]
      exact hf
    · rw [hother q e]
      exact (h.prog q).toRanged
  · rw [hother q fun e => hq (e ▸ hp)]
    exact h.prog q
  · have hqp : q ≠ p := fun e => hq (e ▸ hp)
    have hrp : r ≠ p := fun e => hq (hmem q (by rw [State.sameGroup_comm, ← e]; exact hs) hqa)
    rw [hother q hqp] at hqa ⊢
    rw [hother r hrp] at hra ⊢
    exact h.oneGain q r hqa hra hs

namespace State.SoundOutside
variable {u : State} {p : Prog}

/-- The intersection lies in the bounds of every ACTIVE member (R86). -/
theorem admits_intoGroup (h : u.SoundOutside p) (g : Int) {q : Prog} (hq : q ∈ u.activeGroup p) :
    (u.prog q).Admits (u.intoGroup p g) := by
  obtain ⟨hlo, hhi⟩ := u.zero_in_group p fun q => (h.ranged q).admits_zero
  obtain ⟨lo, hi⟩ := limit_bounds (hlo.trans hhi) g
  exact ⟨(State.groupMin_ge hq).trans lo, hi.trans (State.groupMax_le hq)⟩

/-- One gain that every ACTIVE member's slot admits makes the gains sound. -/
theorem moveGroup (h : u.SoundOutside p) {g : Int} (hg : ∀ q ∈ u.activeGroup p, (u.prog q).Admits g) :
    (u.moveGroup p g).GainsSound := by
  refine State.gainsSound_iff _ |>.2 ⟨fun q => ?_, fun q r hq hr hs => ?_⟩
  · rw [State.prog_moveGroup]
    split
    · rename_i hq
      exact (h.ranged q).moveGain (hg q hq) (by simp [((State.mem_activeGroup ..).1 hq).2])
    · rename_i hq
      exact h.outside q hq
  · have hmode : ∀ a, ((u.moveGroup p g).prog a).mode = (u.prog a).mode := fun a => (u.undisturbed_moveGroup p g a).mode
    replace hs : u.sameGroup q r = true := hs
    rw [hmode] at hq hr
    have hiff : q ∈ u.activeGroup p ↔ r ∈ u.activeGroup p := by
      simp only [State.mem_activeGroup, hq, hr, and_true]
      exact ⟨fun hp => u.sameGroup_trans hp hs, fun hp => u.sameGroup_trans hp (by rwa [u.sameGroup_comm])⟩
    rw [State.prog_moveGroup, State.prog_moveGroup]
    by_cases hm : q ∈ u.activeGroup p
    · rw [if_pos hm, if_pos (hiff.1 hm), Programme.moveGain_gcur, Programme.moveGain_gcur]
    · rw [if_neg hm, if_neg (mt hiff.2 hm)]
      exact h.oneGain q r hm hq hr hs

theorem joinGroup (h : u.SoundOutside p) : (u.joinGroup p).GainsSound := by
  rcases hl : u.activeGroup p with _ | ⟨r, l⟩
  · have hout : ∀ q, q ∉ u.activeGroup p := by simp [hl]
    rw [State.joinGroup_none hl]
    exact u.gainsSound_iff.2 ⟨fun q => h.outside q (hout q), fun q r => h.oneGain q r (hout q)⟩
  · obtain ⟨low, -, -, e⟩ := State.joinGroup_some (s := u) (p := p) (r := r) (hl ▸ List.mem_cons_self)
    rw [e]
    exact h.moveGroup fun q hq => h.admits_intoGroup _ hq

end State.SoundOutside

/-! ### Changes of bounds (R94, R95, R140) -/

theorem State.clampGain_links (s : State) (p : Prog) : (s.clampGain p).links = s.links := by rw [s.clampGain_frame p]

namespace State.GainsSound
variable {s : State} {p : Prog}

/-- A change of the bounds in force, with the clamp that follows it. -/
theorem clampGain_onProg (h : s.GainsSound) {f : Programme → Programme} (hf : (f (s.prog p)).Ranged)
    (hm : (f (s.prog p)).mode = (s.prog p).mode) (hg : (f (s.prog p)).gcur = (s.prog p).gcur) :
    ((s.onProg p f).clampGain p).GainsSound := by
  have hself : (s.onProg p f).prog p = f (s.prog p) := by rw [State.prog_onProg, if_pos rfl]
  obtain ⟨active, measure, off⟩ := (s.onProg p f).clampGain_eq p
  rw [hself, hm] at active measure off
  cases hmode : (s.prog p).mode with
  | active =>
    have hout := h.soundOutside_onProg hf (hm.trans hmode)
    rw [active hmode]
    exact hout.moveGroup fun q hq => hout.admits_intoGroup _ hq
  | measure =>
    have hz : (f (s.prog p)).gcur = 0 := hg.trans ((h.prog p).measure hmode)
    rw [measure hmode]
    exact h.onProg { hf with bounds := hz ▸ hf.admits_zero, measure := fun _ => hz } fun ha => by simp [hm, hmode] at ha
  | off =>
    rw [off hmode, State.onProg_onProg]
    refine h.onProg (hf.moveGain (hf.admits_limit _) (by simp [hm, hmode])) fun ha => ?_
    simp [hm, hmode] at ha

theorem switchSlot (h : s.GainsSound) (p : Prog) : (s.switchSlot p).GainsSound := by
  have hclamp := h.clampGain_onProg (p := p) (f := fun P => { P with inService := otherSlot P.inService })
    { (h.prog p).toRanged with } rfl rfl
  rw [State.switchSlot]
  exact hclamp.of_eq (State.progs_clampGain_congr (State.fire_progs ..) (State.fire_links ..) p)
    (by rw [State.clampGain_links, State.clampGain_links]; rfl)

/-- New contents of a slot, which change the bounds in force where it is in service (R95, R127). -/
theorem storeSlot (h : s.GainsSound) (p : Prog) (i : Slot) {f : Profile} (hf : f.InRange) : (s.storeSlot p i f).GainsSound := by
  have hr : { s.prog p with slots := (s.prog p).slots.set i.val f : Programme }.Ranged :=
    { (h.prog p).toRanged with
      slots := fun j => by
        rw [Fin.getElem_fin, Vector.getElem_set]
        split
        · exact hf
        · exact (h.prog p).slots j }
  simp only [State.storeSlot]
  split
  · exact h.clampGain_onProg (f := fun P => { P with slots := P.slots.set i.val f }) hr rfl rfl
  · rename_i hn
    refine h.onProg { hr with bounds := ?_, measure := (h.prog p).measure } fun ha => ⟨ha, rfl⟩
    have hb := (h.prog p).bounds
    simp only [Programme.Admits, Programme.profile, Fin.getElem_fin, Vector.getElem_set] at hb ⊢
    split
    · rename_i e
      have hi : (s.prog p).inService = i := Fin.ext e.symm
      simp only [hi, true_and, not_or, not_not, Fin.getElem_fin] at hn hb
      rwa [← hn.1, ← hn.2]
    · exact hb

end State.GainsSound

/-! ### The gain law (R81, R83, R91) -/

/-- A step ends between the gain and the target (R83). -/
theorem stepToward_between {f : Profile} (h : f.InRange) (g t : Int) : min g t ≤ stepToward f g t ∧ stepToward f g t ≤ max g t := by
  obtain ⟨-, -, -, -, -, -, -, -, hup, -, hdown, -, hband, -⟩ := h
  unfold stepToward
  split
  · omega
  split <;> omega

/-- The target of a group with a desired gain is limited into the intersection. -/
theorem State.groupTarget_eq {s : State} {p : Prog} {t : Int} (h : s.groupTarget p = some t) : ∃ low, t = s.intoGroup p low := by
  obtain ⟨low, -, e⟩ := Option.map_eq_some_iff.1 h
  exact ⟨low, e.symm⟩

theorem State.mem_of_head {s : State} {p q : Prog} (h : s.head p = some q) : q ∈ s.activeGroup p := List.mem_of_head? h

namespace State.GainsSound
variable {s : State}

theorem stepGroup (h : s.GainsSound) {p : Prog} (hp : p ∈ s.activeGroup p) : (s.stepGroup p).GainsSound := by
  unfold State.stepGroup
  split
  · rename_i t ht
    obtain ⟨low, rfl⟩ := State.groupTarget_eq ht
    have hout := h.soundOutside p
    refine hout.moveGroup fun q hq => ?_
    obtain ⟨hs, ha⟩ := (State.mem_activeGroup ..).1 hq
    have hgain := h.oneGain p q ((State.mem_activeGroup ..).1 hp).2 ha hs
    obtain ⟨tlo, thi⟩ := hout.admits_intoGroup low hq
    obtain ⟨glo, ghi⟩ := (h.prog q).bounds
    obtain ⟨lo, hi⟩ := stepToward_between (h.prog p).profile (s.prog p).gcur (s.intoGroup p low)
    rw [hgain] at lo hi ⊢
    exact ⟨(le_min glo tlo).trans lo, hi.trans (max_le ghi thi)⟩
  · exact h

theorem gainLaw (h : s.GainsSound) (p : Prog) : (s.gainLaw p).GainsSound := by
  unfold State.gainLaw
  split
  · exact h
  · rename_i r _
    have hd : (s.onProg p fun P => { P with gd := some (P.desiredGain r) }).GainsSound :=
      h.onProg { (h.prog p).toRanged.storeGd r with bounds := (h.prog p).bounds, measure := (h.prog p).measure }
        fun ha => ⟨ha, rfl⟩
    have hstep : ∀ {u : State}, u.GainsSound → (if u.head p = some p then u.stepGroup p else u).GainsSound := fun hu => by
      split
      · rename_i hhead
        exact hu.stepGroup (State.mem_of_head hhead)
      · exact hu
    refine ((hstep hd).still (.onProg p .supervise)).of_eq ?_ ?_
    · exact State.fireIf_progs ..
    · exact State.fireIf_links ..

end State.GainsSound

end Sys2Proof.Machine

/-! PROOFS. The soundness of the gains through the operations of the part: completions, visits, frames, cue lines, modes, resets and
links (R10 to R19, R81 to R95, R140). -/

namespace Sys2Proof.Machine

/-! ### One programme -/

theorem Programme.GainSound.enterOff {P : Programme} (h : P.GainSound) : P.enterOff.GainSound :=
  { h with measure := fun hm => nomatch hm }

namespace Programme.Ranged
variable {P : Programme}

/-- A programme that leaves OFF has the gain 0, in any mode (R12). -/
theorem leaveOff (h : P.Ranged) (lost : Bool) (m : Mode) : (P.leaveOff lost m).GainSound :=
  { h with bounds := h.admits_zero, measure := fun _ => rfl }

theorem toMeasure (h : P.Ranged) : P.toMeasure.GainSound := by
  unfold Programme.toMeasure
  rw [P.moveGain_frame 0, P.moveGain_gcur 0]
  exact { h with bounds := h.admits_zero, measure := fun _ => rfl }

theorem clearMeasurement (h : P.Ranged) : P.clearMeasurement.GainSound where
  slots := h.slots
  gd _ hg := nomatch hg
  trim := by show (-1200 : Int) ≤ 0 ∧ (0 : Int) ≤ 1200; decide
  bounds := h.admits_zero
  measure _ := rfl

end Programme.Ranged

/-! ### Links (R86, R88) -/

/-- Link flag `k` with the setting `b`. -/
def State.withLink (s : State) (k : LinkFlag) (b : Bool) : State := { s with links := s.links.set k.val b }

theorem State.setLink_eq (s : State) (k : LinkFlag) (b : Bool) : s.setLink k b =
    if s.link k.val = b then s else if b then (s.withLink k b).joinGroup k.castSucc else s.withLink k b := rfl

@[simp] theorem State.prog_withLink (s : State) (k : LinkFlag) (b : Bool) (q : Prog) : (s.withLink k b).prog q = s.prog q := rfl

theorem State.link_withLink (s : State) (k : LinkFlag) (b : Bool) (j : Nat) :
    (s.withLink k b).link j = if j = k.val then b else s.link j := by
  unfold State.link
  split
  · simp only [State.withLink, Vector.getElem_set, eq_comm (a := j)]
  · rename_i hj
    rw [if_neg fun e : j = k.val => hj (e ▸ k.isLt)]

/-- Clearing a flag joins no programmes. -/
theorem State.sameGroup_of_clear {s : State} {k : LinkFlag} {p q : Prog} (h : (s.withLink k false).sameGroup p q = true) :
    s.sameGroup p q = true := by
  rw [State.sameGroup_iff] at h ⊢
  intro j hj lo hi
  have hlink := h j hj lo hi
  rw [State.link_withLink] at hlink
  split at hlink
  · cases hlink
  · exact hlink

/-- Setting a flag joins programmes only in the group that it makes. -/
theorem State.sameGroup_of_set {s : State} {k : LinkFlag} {p q : Prog} (h : (s.withLink k true).sameGroup p q = true)
    (hp : (s.withLink k true).sameGroup k.castSucc p = false) : s.sameGroup p q = true := by
  have hout : ¬ (min p.val q.val ≤ k.val ∧ k.val < max p.val q.val) := fun hk => by
    rw [State.sameGroup_iff] at h
    refine Bool.false_ne_true (hp.symm.trans (State.sameGroup_iff .. |>.2 fun j hj lo hi => h j hj ?_ ?_)) <;>
      simp only [Fin.val_castSucc] at lo hi <;> omega
  rw [State.sameGroup_iff] at h ⊢
  intro j hj lo hi
  have hlink := h j hj lo hi
  rw [State.link_withLink] at hlink
  split at hlink
  · rename_i e
    exact absurd ⟨e ▸ lo, e ▸ hi⟩ hout
  · exact hlink

namespace State.GainsSound
variable {s t : State}

theorem clearLink (h : s.GainsSound) (k : LinkFlag) : (s.withLink k false).GainsSound :=
  State.gainsSound_iff _ |>.2 ⟨h.prog, fun p q hp hq hs => h.oneGain p q hp hq (State.sameGroup_of_clear hs)⟩

/-- A flag that is set leaves the gains sound but for the group that it makes. -/
theorem setLink_soundOutside (h : s.GainsSound) (k : LinkFlag) : (s.withLink k true).SoundOutside k.castSucc where
  ranged q := (h.prog q).toRanged
  outside q _ := h.prog q
  oneGain q r hout hq hr hs := h.oneGain q r hq hr (State.sameGroup_of_set hs (by
    by_contra hc
    exact hout ((State.mem_activeGroup ..).2 ⟨by simpa using hc, hq⟩)))

theorem setLink (h : s.GainsSound) (k : LinkFlag) (b : Bool) : (s.setLink k b).GainsSound := by
  rw [State.setLink_eq]
  split
  · exact h
  cases b with
  | true => exact (h.setLink_soundOutside k).joinGroup
  | false => exact h.clearLink k

/-! ### Events and conditions -/

theorem fireSettled (h : s.GainsSound) (u : State) (p : Prog) : (s.fireSettled u p).GainsSound :=
  h.of_eq (State.fireIf_progs ..) (State.fireIf_links ..)

theorem followFrom (h : s.GainsSound) (u : State) : (s.followFrom u).GainsSound := h.of_eq rfl rfl

theorem onPort (h : s.GainsSound) (port : Port) (f : PortState → PortState) : (s.onPort port f).GainsSound := h.of_eq rfl rfl

theorem onCue (h : s.GainsSound) (l : CueLine) (f : CueState → CueState) : (s.onCue l f).GainsSound := h.of_eq rfl rfl

theorem onProg_same (h : s.GainsSound) (p : Prog) {f : Programme → Programme} (hf : ∀ P : Programme, P.SameGains (f P)) :
    (s.onProg p f).GainsSound := h.still (.onProg p hf)

/-! ### Sub-blocks, visits and frames -/

theorem consultSchedule (h : s.GainsSound) (p : Prog) (c : Count32) : (s.consultSchedule p c).GainsSound := by
  have hk : ∀ k, (s.onProg p fun P => { P with schedule := k }).GainsSound := fun k =>
    h.onProg_same p fun _ => ⟨rfl, rfl, rfl, rfl, rfl, rfl⟩
  simp only [State.consultSchedule]
  split
  · exact h
  split
  · exact (hk _).switchSlot p
  split
  · exact (hk _).switchSlot p
  · exact h

theorem enqueue (h : s.GainsSound) (p : Prog) (x : SubBlock) : (s.enqueue p x).GainsSound := by
  obtain ⟨hframe, hprog⟩ := s.enqueue_frame p x
  exact h.still ⟨by rw [hframe], fun q => by rw [hprog]; exact ⟨rfl, rfl, rfl, rfl, rfl, rfl⟩⟩

theorem complete (h : s.GainsSound) (p : Prog) : (s.complete p).GainsSound := by
  cases hd : (s.prog p).front.due with
  | false => rwa [State.complete_of_not_due hd]
  | true =>
    rw [State.complete_of_due hd]
    have hf : ∀ c, (s.onProg p fun P => { P with front := { P.front.discard with counter := c } }).GainsSound := fun _ =>
      h.onProg_same p fun _ => ⟨rfl, rfl, rfl, rfl, rfl, rfl⟩
    exact ((hf _).consultSchedule p _).enqueue p _

theorem completes (h : s.GainsSound) (l : List Prog) : (l.foldl State.complete s).GainsSound := by
  induction l generalizing s with
  | nil => exact h
  | cons p ps ih => exact ih (h.complete p)

theorem visit (h : s.GainsSound) (e : ScanEntry) : (s.visit e).GainsSound := by
  cases e with
  | none => exact h
  | some p =>
    simp only [State.visit]
    split
    · exact h
    · exact (h.onProg_same p fun P => (Programme.SameGains.consume P).trans (.consume _)).gainLaw p

theorem tick (h : s.GainsSound) : s.tick.GainsSound := by
  cases hd : s.tickDue with
  | false => rwa [State.tick_of_not_due hd]
  | true =>
    rw [State.tick_of_due hd]
    have ha : ∀ next, (s.advanceScan next).GainsSound := fun _ => h.of_eq rfl rfl
    exact (ha _).visit _

theorem mapProgs_same (h : s.GainsSound) {f : Prog → Programme → Programme} (hf : ∀ p, (s.prog p).SameGains (f p (s.prog p))) :
    (s.mapProgs f).GainsSound := h.still (.mapProgs hf)

theorem carryOut (h : s.GainsSound) : s.carryOut.GainsSound :=
  (State.GainsSound.completes (s := s.endRamps) (h.mapProgs_same fun _ => ⟨rfl, rfl, rfl, rfl, rfl, rfl⟩) allProgs).tick

theorem takeFrame (h : s.GainsSound) (slots : Vector TdmWord 16) : (s.takeFrame slots).GainsSound :=
  h.still ⟨by rw [(s.takeFrame_frame slots).1], fun p => by rw [State.prog_takeFrame]; exact .frame _ _⟩

theorem loseClock (h : s.GainsSound) : s.loseClock.GainsSound :=
  (h.mapProgs_same (f := fun _ P => { P with front := P.front.discard }) fun _ => ⟨rfl, rfl, rfl, rfl, rfl, rfl⟩).of_eq rfl rfl

theorem returnClock (h : s.GainsSound) : s.returnClock.GainsSound :=
  (h.mapProgs_same (f := fun _ P => P.returnClock) fun _ => ⟨rfl, rfl, rfl, rfl, rfl, rfl⟩).of_eq rfl rfl

/-! ### Cue lines -/

theorem logCue (h : s.GainsSound) (e : CueEntry) : (s.logCue e).GainsSound := by
  unfold State.logCue
  split <;> exact h.of_eq rfl rfl

theorem capture (h : s.GainsSound) (l : CueLine) (k : CueKind) (a : CueAction) : (s.capture l k a).GainsSound :=
  (h.complete _).logCue _

theorem applyAction (h : s.GainsSound) (p : Prog) (a : CueAction) : (s.applyAction p a).GainsSound := by
  cases a with
  | nothing => exact h
  | restart => exact h.onProg_same p fun _ => ⟨rfl, rfl, rfl, rfl, rfl, rfl⟩
  | swap => exact h.switchSlot p
  | pause => exact h.onProg_same p fun _ => ⟨rfl, rfl, rfl, rfl, rfl, rfl⟩

theorem assertCue (h : s.GainsSound) (l : CueLine) : (s.assertCue l).GainsSound := ((h.onCue l _).capture l _ _).applyAction _ _

theorem unpauseCue (h : s.GainsSound) (p : Prog) : (s.unpauseCue p).GainsSound :=
  h.onProg_same p fun _ => ⟨rfl, rfl, rfl, rfl, rfl, rfl⟩

theorem releaseCue (h : s.GainsSound) (l : CueLine) : (s.releaseCue l).GainsSound := by
  have hu : ∀ (c : Prop) [Decidable c] {u : State} (p : Prog), u.GainsSound → (if c then u.unpauseCue p else u).GainsSound :=
    fun c _ _ p hu => by
      split
      · exact hu.unpauseCue p
      · exact hu
  have hc := hu ((s.cue l).config.action = .pause) (s.cue l).config.programme
    ((h.complete (s.cue l).config.programme).onCue l fun c => { c with asserted := false, run := 0 })
  simp only [State.releaseCue]
  split
  · exact hc.capture l _ _
  · exact hc

theorem sampleCue (h : s.GainsSound) (l : CueLine) (pin : Bool) : (s.sampleCue l pin).GainsSound := by
  simp only [State.sampleCue]
  split
  · exact h
  split
  · exact h.onCue l _
  split
  · unfold State.qualifyCue
    split
    · exact h.releaseCue l
    · exact h.assertCue l
  · exact h.onCue l _

theorem sampleCues (h : s.GainsSound) (pins : BitVec 4) : (s.sampleCues pins).GainsSound := by
  unfold State.sampleCues
  generalize allLines = ls
  induction ls generalizing s with
  | nil => exact h
  | cons l ls ih => exact ih (h.sampleCue l _)

theorem configureCue (h : s.GainsSound) (l : CueLine) (f : CueConfig) : (s.configureCue l f).GainsSound := by
  simp only [State.configureCue]
  split
  · exact (h.unpauseCue _).onCue l _
  · exact h.onCue l _

/-! ### Modes and resets -/

/-- A change of mode joins the group of a newcomer, and leaves any other gain in its bounds (R11 to R14). -/
theorem changeMode (h : s.GainsSound) (p : Prog) (m : Mode) : (s.changeMode p m).GainsSound := by
  have hp := h.prog p
  rcases s.changeMode_cases p m with e | ⟨f, hf, e⟩ | e | e <;> rw [e]
  · exact h
  · refine State.GainsSound.fireSettled ?_ s p
    simp only [List.mem_cons, List.not_mem_nil, or_false] at hf
    obtain rfl | rfl | rfl := hf
    · exact h.onProg hp.enterOff fun ha => nomatch ha
    · exact h.onProg (hp.leaveOff _ _) fun ha => nomatch ha
    · exact h.onProg hp.toMeasure fun ha => nomatch ha
  · have hj := (h.soundOutside_onProg (hp.leaveOff s.clockLost .active).toRanged rfl).joinGroup
    exact (hj.onProg_same p (f := Programme.settleFactor) fun _ => ⟨rfl, rfl, rfl, rfl, rfl, rfl⟩).fireSettled s p
  · refine State.GainsSound.fireSettled ?_ s p
    exact (h.soundOutside_onProg (f := Programme.toActive) { hp.toRanged with } rfl).joinGroup

theorem resetProgramme (h : s.GainsSound) (p : Prog) : (s.resetProgramme p).GainsSound := by
  rw [State.resetProgramme_eq]
  have hu := h.complete p
  generalize s.complete p = u at hu
  have hc := (hu.prog p).clearMeasurement
  refine State.GainsSound.fireSettled ?_ u p
  unfold State.clearAndJoin
  split
  · rename_i hm
    exact (hu.soundOutside_onProg hc.toRanged hm).joinGroup
  · rename_i hm
    exact hu.onProg hc fun ha => absurd ha hm

theorem resetTo (s : State) (b : Bool) (r : ResetRecord) (a : Port → Access) : (s.resetTo b r a).GainsSound :=
  State.reset_gainsSound.of_eq rfl rfl

end State.GainsSound

end Sys2Proof.Machine

/-! PROOFS. WRITE_PROFILE keeps a slot in its ranges, field by field (R121, R122, R126). -/

namespace Sys2Proof.Machine

/-! ### A slot by its fields -/

/-- The numeric field `x` lies in its range, as the range stands (R121). -/
def Profile.Within (f : Profile) (x : Field) : Prop := f.lowest x ≤ f.get x ∧ f.get x ≤ highestOf x

/-- A label is absent, or has one to sixteen printable characters (R122). -/
def Profile.LabelOk (f : Profile) : Prop :=
  ∀ label, f.label = some label → label ≠ [] ∧ label.length ≤ 16 ∧ ∀ b ∈ label, 0x20 ≤ b.toNat ∧ b.toNat ≤ 0x7E

theorem Profile.inRange_iff (f : Profile) : f.InRange ↔ (∀ x, f.Within x) ∧ f.LabelOk := by
  constructor
  · rintro ⟨target, target', ceiling, ceiling', gainMin, gainMin', gainMax, gainMax', upRate, upRate', downRate, downRate', deadband,
      deadband', holdThreshold, holdThreshold', warnDev, warnDev', faultDev, faultDev', faultVisits, faultVisits', settleTol,
      settleTol', settleCount, settleCount', release, release', label⟩
    refine ⟨fun x => ?_, label⟩
    cases x <;> exact ⟨‹_›, ‹_›⟩
  · rintro ⟨h, label⟩
    have field : ∀ x {c : Prop}, c → f.lowest x ≤ f.get x ∧ f.get x ≤ highestOf x ∧ c := fun x _ hc => ⟨(h x).1, (h x).2, hc⟩
    exact field .target (field .ceiling (field .gainMin (field .gainMax (field .upRate (field .downRate (field .deadband
      (field .holdThreshold (field .warnDev (field .faultDev (field .faultVisits (field .settleTol (field .settleCount
      (field .release label)))))))))))))

theorem Profile.get_put (f : Profile) (x y : Field) (v : Int) : (f.put x v).get y = if y = x then v else f.get y := by
  cases x <;> cases y <;> rfl

@[simp] theorem Profile.label_put (f : Profile) (x : Field) (v : Int) : (f.put x v).label = f.label := by cases x <;> rfl

/-- The ranges read warn_dev alone (R121). -/
theorem Profile.lowest_congr {f g : Profile} (h : f.get .warnDev = g.get .warnDev) (x : Field) : f.lowest x = g.lowest x := by
  cases x with
  | faultDev => exact h
  | _ => rfl

theorem Profile.lowest_of_ne {x : Field} (hx : x ≠ .faultDev) (f g : Profile) : f.lowest x = g.lowest x := by
  cases x with
  | faultDev => exact absurd rfl hx
  | _ => rfl

theorem Profile.lowest_le_highest {f : Profile} (h : f.Within .warnDev) (x : Field) : f.lowest x ≤ highestOf x := by
  cases x with
  | faultDev => exact h.2.trans (by decide)
  | _ => simp [Profile.lowest, highestOf]

/-- A field stored within its range, where the others lie in theirs. -/
theorem Profile.within_put {f : Profile} {x : Field} {v : Int} (hx : x ≠ .warnDev) (hf : ∀ y, y ≠ x → f.Within y)
    (hv : f.lowest x ≤ v ∧ v ≤ highestOf x) (y : Field) : (f.put x v).Within y := by
  have hwarn : (f.put x v).get .warnDev = f.get .warnDev := by rw [Profile.get_put, if_neg (Ne.symm hx)]
  rw [Profile.Within, Profile.lowest_congr hwarn, Profile.get_put]
  split
  · rename_i e
    exact e ▸ hv
  · rename_i e
    exact hf y e

/-! ### The turns of a write (R126) -/

namespace Writing

@[simp] theorem count_profile (w : Writing) (n : Nat) (b : Bool) : (w.count n b).profile = w.profile := by
  unfold Writing.count
  split <;> rfl

/-- The turn of a numeric field leaves the slot, or stores a value of the field's range. -/
theorem number_profile (items : List ProfileItem) (w : Writing) (x : Field) : (w.number items x).profile = w.profile ∨
    ∃ v, (w.number items x).profile = w.profile.put x (limit (w.profile.lowest x) (highestOf x) v) := by
  unfold Writing.number
  split
  · exact .inl rfl
  · exact .inr ⟨_, count_profile ..⟩

variable {w : Writing}

theorem number_inRange (items : List ProfileItem) (h : w.profile.InRange) {x : Field} (hx : x ≠ .warnDev) :
    (w.number items x).profile.InRange := by
  obtain ⟨hf, hl⟩ := w.profile.inRange_iff.1 h
  rcases w.number_profile items x with e | ⟨v, e⟩ <;> rw [e]
  · exact h
  · exact (Profile.inRange_iff _).2 ⟨Profile.within_put hx (fun y _ => hf y)
      (limit_bounds (Profile.lowest_le_highest (hf .warnDev) x) v), by simpa [Profile.LabelOk] using hl⟩

theorem numbers_inRange (items : List ProfileItem) {l : List Field} (hl : .warnDev ∉ l) (h : w.profile.InRange) :
    (l.foldl (Writing.number items) w).profile.InRange := by
  induction l generalizing w with
  | nil => exact h
  | cons x xs ih =>
    obtain ⟨hx, hxs⟩ := not_or.1 (mt List.mem_cons.2 hl)
    exact ih hxs (number_inRange items h (Ne.symm hx))

/-- A warn_dev stored within its range leaves every other field but fault_dev in its own, and a fault_dev below it is raised to it. -/
theorem raiseFault_inRange (h : ∀ x, x ≠ .faultDev → w.profile.Within x) (hfault : w.profile.get .faultDev ≤ 3000)
    (hl : w.profile.LabelOk) : w.raiseFault.profile.InRange := by
  unfold Writing.raiseFault
  split
  · rw [count_profile]
    exact (Profile.inRange_iff _).2 ⟨Profile.within_put (f := w.profile) (x := .faultDev) (by decide) h
      ⟨le_rfl, (h .warnDev (by decide)).2.trans (by decide)⟩, hl⟩
  · rename_i hn
    refine (Profile.inRange_iff _).2 ⟨fun x => ?_, hl⟩
    by_cases e : x = .faultDev
    · exact e ▸ ⟨not_lt.1 hn, hfault⟩
    · exact h x e

theorem warnDev_inRange (items : List ProfileItem) (h : w.profile.InRange) :
    (w.number items .warnDev).raiseFault.profile.InRange := by
  obtain ⟨hf, hl⟩ := w.profile.inRange_iff.1 h
  rcases w.number_profile items .warnDev with e | ⟨v, e⟩
  · exact raiseFault_inRange (fun x _ => by rw [e]; exact hf x) (by rw [e]; exact (hf .faultDev).2) (by rw [e]; exact hl)
  · refine raiseFault_inRange (fun x hx => ?_) ?_ ?_ <;> rw [e]
    · rw [Profile.Within, Profile.lowest_of_ne hx _ w.profile, Profile.get_put]
      split
      · rename_i hw
        exact hw ▸ limit_bounds (Profile.lowest_le_highest (hf .warnDev) .warnDev) v
      · exact hf x
    · rw [Profile.get_put]
      exact (hf .faultDev).2
    · simpa [Profile.LabelOk] using hl

theorem label_inRange {items : List ProfileItem} (hi : ∀ x ∈ items, itemOk x) (h : w.profile.InRange) :
    (w.label items).profile.InRange := by
  unfold Writing.label
  split
  · exact h
  · rename_i chars hc
    obtain ⟨item, hmem, hitem⟩ := List.exists_of_findSome?_eq_some hc
    obtain rfl : item = .label chars := by
      cases item with
      | label c => exact congrArg ProfileItem.label (Option.some.inj hitem)
      | number _ _ => cases hitem
      | steering _ => cases hitem
    obtain ⟨hlen, hchars⟩ := hi _ hmem
    refine (Profile.inRange_iff _).2 ⟨(w.profile.inRange_iff.1 h).1, fun label hlabel => ?_⟩
    dsimp only at hlabel
    split at hlabel
    · cases hlabel
    · rename_i hne
      obtain rfl := Option.some.inj hlabel
      exact ⟨hne, hlen, hchars⟩

end Writing

/-- The items of an accepted WRITE_PROFILE leave a slot in its ranges. -/
theorem Profile.write_inRange {f : Profile} {items : List ProfileItem} (h : f.InRange) (hi : ∀ x ∈ items, itemOk x) :
    (f.write items).profile.InRange := by
  have steering : ∀ {w : Writing}, w.profile.InRange → (w.steering items).profile.InRange := fun hw => by
    unfold Writing.steering
    split <;> exact hw
  unfold Profile.write
  exact Writing.label_inRange hi (Writing.numbers_inRange items (by decide)
    (Writing.warnDev_inRange items (steering (Writing.numbers_inRange items (by decide) h))))

end Sys2Proof.Machine

/-! PROOFS. The soundness of the gains through every request, every command and every step (R85, R86, R121). -/

namespace Sys2Proof.Machine

namespace State.GainsSound
variable {s t : State}

/-! ### The requests -/

/-- A request that rewrites the programme of its TARGET, by a function that keeps what the gains read. -/
theorem keeps_of_same {n : Nat} {f : List Byte → Programme → Programme} {serve : Serve}
    (hf : ∀ d (P : Programme), P.SameGains (f d P))
    (he : ∀ port target payload (s : State), serve port target payload s = needFull port s (needSize n payload s <|
      needBelow 8 target s fun p => needClaim port (progRecord p) s (done (s.onProg p (f payload))))) :
    serve.Keeps State.GainsSound := fun port target payload s h => by
  rw [he]
  exact programmeRequest_state h fun p => h.onProg_same p (hf payload)

theorem keeps_claim : Serve.Keeps State.GainsSound serveClaim := fun _ _ _ _ h =>
  needFull_state h (needSize_state h (needBelow_state h fun _ => by
    split
    · exact h.of_eq rfl rfl
    · exact h))

theorem keeps_release : Serve.Keeps State.GainsSound serveRelease := fun _ _ _ _ h =>
  needFull_state h (needSize_state h (needBelow_state h fun _ => by
    split
    · exact h.of_eq rfl rfl
    · exact h))

theorem keeps_setMode : Serve.Keeps State.GainsSound serveSetMode := fun _ _ _ _ h =>
  needFull_state h (needSize_state h (needBelow_state h fun p => needValue_state h fun m => needClaim_state h (h.changeMode p m)))

theorem keeps_writeProfile : Serve.Keeps State.GainsSound serveWriteProfile := fun _ _ _ _ h =>
  needFull_state h (by
    split
    · exact h
    · refine needBelow_state h fun p => needBelow_state h fun i => needValue_state_of_eq h fun items hitems => ?_
      obtain ⟨-, -, hok⟩ := (profileItems_eq_some ..).1 hitems
      exact needClaim_state h (needIdleSlot_state h (h.storeSlot p i (Profile.write_inRange ((h.prog p).slots i) hok))))

theorem keeps_copyProfile : Serve.Keeps State.GainsSound serveCopyProfile := fun _ _ _ _ h =>
  needFull_state h (needSize_state h (needBelow_state h fun p => needBelow_state h fun i => needBelow_state h fun q =>
    needBelow_state h fun j => by
      split
      · exact h
      · exact needClaim_state h (needIdleSlot_state h (h.storeSlot p i ((h.prog q).slots j)))))

/-- The trim is limited into its range (R132). -/
theorem keeps_setTrim : Serve.Keeps State.GainsSound serveSetTrim := fun _ _ _ s h =>
  have ht : ∀ p v, (s.onProg p fun P => { P with trim := limit (-1200) 1200 v }).GainsSound := fun p v =>
    h.onProg { h.prog p with trim := limit_bounds (by decide) v } fun ha => ⟨ha, rfl⟩
  programmeRequest_state h fun p => ht p _

theorem keeps_setSchedule : Serve.Keeps State.GainsSound serveSetSchedule := fun _ _ _ s h =>
  have hk : ∀ p k, (s.onProg p fun P => { P with schedule := k }).GainsSound := fun p _ =>
    h.onProg_same p fun _ => ⟨rfl, rfl, rfl, rfl, rfl, rfl⟩
  needFull_state h (needSize_state h (needBelow_state h fun p => needValue_state h fun _ => needClaim_state h (hk p _)))

theorem keeps_forceSlot : Serve.Keeps State.GainsSound serveForceSlot := fun _ _ _ _ h =>
  needFull_state h (needSize_state h (needBelow_state h fun p => needBelow_state h fun _ => needClaim_state h (by
    dsimp only [done]
    split
    · exact h
    · exact h.switchSlot p)))

theorem keeps_setCount : Serve.Keeps State.GainsSound serveSetCount :=
  keeps_of_same (f := fun d P => { P with front := { P.front with counter := word32At d 0 } })
    (fun _ _ => ⟨rfl, rfl, rfl, rfl, rfl, rfl⟩) fun _ _ _ _ => rfl

theorem keeps_restartSegment : Serve.Keeps State.GainsSound serveRestartSegment :=
  keeps_of_same (f := fun _ => Programme.restartSegment) (fun _ _ => ⟨rfl, rfl, rfl, rfl, rfl, rfl⟩) fun _ _ _ _ => rfl

theorem keeps_pause : Serve.Keeps State.GainsSound servePause :=
  keeps_of_same (f := fun _ P => { P with requestPause := true }) (fun _ _ => ⟨rfl, rfl, rfl, rfl, rfl, rfl⟩) fun _ _ _ _ => rfl

theorem keeps_resume : Serve.Keeps State.GainsSound serveResume :=
  keeps_of_same (f := fun _ P => { P with requestPause := false }) (fun _ _ => ⟨rfl, rfl, rfl, rfl, rfl, rfl⟩) fun _ _ _ _ => rfl

theorem keeps_resetProgramme : Serve.Keeps State.GainsSound serveResetProgramme := fun _ _ _ _ h =>
  programmeRequest_state h fun p => h.resetProgramme p

theorem keeps_setLink : Serve.Keeps State.GainsSound serveSetLink := fun _ _ _ _ h =>
  needFull_state h (needSize_state h (needBelow_state h fun k => needValue_state h fun b =>
    needClaim_state h (needClaim_state h (h.setLink k b))))

theorem keeps_loadScanTable : Serve.Keeps State.GainsSound serveLoadScanTable := fun _ _ _ _ h =>
  needFull_state h (needValue_state h fun _ => needClaim_state h (h.of_eq rfl rfl))

theorem keeps_setScanPeriod : Serve.Keeps State.GainsSound serveSetScanPeriod := fun _ _ _ _ h =>
  needFull_state h (needSize_state h (needClaim_state h (h.of_eq rfl rfl)))

theorem keeps_configCue : Serve.Keeps State.GainsSound serveConfigCue := fun _ _ _ _ h =>
  needFull_state h (needSize_state h (needBelow_state h fun l => needBelow_state h fun _ => needValue_state h fun _ =>
    needValue_state h fun _ => needValue_state h fun _ => needValue_state h fun _ => needClaim_state h (h.configureCue l _)))

theorem keeps_dropCueEntries : Serve.Keeps State.GainsSound serveDropCueEntries := fun _ _ _ _ h =>
  needFull_state h (needSize_state h (h.of_eq rfl rfl))

theorem keeps_resetDevice : Serve.Keeps State.GainsSound serveResetDevice := fun _ _ _ _ h =>
  needFull_state h (needSize_state h (needClaim_state h (h.of_eq rfl rfl)))

theorem keeps_notice (f : SourceSet → SourceSet → Notice → Notice) : Serve.Keeps State.GainsSound (serveNotice f) :=
  fun _ _ _ _ h => needSize_state h (needValue_state h fun _ => h.of_eq rfl rfl)

/-- The service of every row of the table of requests. -/
theorem keeps_requestTable : ∀ row ∈ requestTable, Serve.Keeps State.GainsSound row.2 := by
  simp only [requestTable, List.forall_mem_cons]
  exact ⟨keeps_of_read serveReadProgramme_state, keeps_of_read serveReadProfile_state,
    keeps_of_read serveReadHistogram_state, keeps_of_read serveReadCueLog_state,
    keeps_of_read serveReadDevice_state, keeps_of_read serveReadNotices_state, keeps_claim, keeps_release,
    keeps_setMode, keeps_writeProfile, keeps_copyProfile, keeps_setTrim, keeps_setSchedule, keeps_forceSlot, keeps_setCount,
    keeps_restartSegment, keeps_pause, keeps_resume, keeps_resetProgramme, keeps_setLink, keeps_loadScanTable,
    keeps_setScanPeriod, keeps_configCue, keeps_dropCueEntries, keeps_resetDevice, keeps_notice _, keeps_notice _,
    keeps_notice _, by simp⟩

theorem keeps_code (code : Byte) : Serve.Keeps State.GainsSound (serveCode code) := by
  unfold serveCode
  cases hf : requestTable.find? (·.1 = code) with
  | none => exact keeps_of_read fun _ _ _ _ => rfl
  | some row => exact keeps_requestTable row (List.mem_of_find?_eq_some hf)

/-! ### The ports -/

theorem takeMessage (h : s.GainsSound) (port : Port) (code target : Byte) (payload : List Byte) :
    (s.takeMessage port code target payload (serveCode code)).GainsSound :=
  State.takeMessage_keeps code target payload h (fun _ h => h.of_eq rfl rfl) (fun _ _ h => h.of_eq rfl rfl) (keeps_code code)

theorem receiveByte (h : s.GainsSound) (port : Port) (bytes : List Byte) (b : Byte) : (s.receiveByte port bytes b).GainsSound := by
  unfold State.receiveByte
  split
  · split <;> exact h.onPort port _
  split
  · split
    · exact h.takeMessage port _ _ _
    · exact h.onPort port _
  · exact h.onPort port _

theorem declareAbsent (h : s.GainsSound) (port : Port) : (s.declareAbsent port).GainsSound := by
  rcases s.declareAbsent_cases port with ⟨-, e⟩ | ⟨-, -, -, e⟩ | ⟨-, -, -, e⟩ <;> rw [e]
  · exact h
  · exact h.onPort port _
  · exact h.of_eq (by simp [State.dropClaims]) (by simp [State.dropClaims])

/-! ### Every command -/

/-- Every command leaves the gains sound; a request command is the message of its code. -/
theorem exec (h : s.GainsSound) (c : Instr) : ∃ t, exec c s = .next t ∧ t.GainsSound := by
  have hif : ∀ {c : Prop} [Decidable c] {t : State}, t.GainsSound → (if c then t else s).GainsSound := fun ht => by
    split
    · exact ht
    · exact h
  have hheld : ∀ {c : Prop} [Decidable c] {t : State}, t.GainsSound → (if c then s else t).GainsSound := fun ht => by
    split
    · exact h
    · exact ht
  have request : ∀ port code target d, ∃ t,
      Host.Outcome.next (φ := Fault) (ρ := Refusal) (s.takeMessage port code target d (serveCode code)) = .next t ∧ t.GainsSound :=
    fun port code target d => ⟨_, rfl, h.takeMessage port code target d⟩
  cases c with
  | powerOn straps => exact ⟨_, rfl, resetTo ..⟩
  | pinReset => exact ⟨_, rfl, hheld (resetTo ..)⟩
  | resetEnd => exact ⟨_, rfl, hif (h.of_eq rfl rfl)⟩
  | frameSync =>
    refine ⟨_, rfl, hheld ?_⟩
    split <;> exact h.of_eq rfl rfl
  | inputFrame slots => exact ⟨_, rfl, hif ((h.carryOut.takeFrame slots).followFrom s)⟩
  | rampEnd p => exact ⟨_, rfl, hheld (h.onProg_same p fun _ => ⟨rfl, rfl, rfl, rfl, rfl, rfl⟩)⟩
  | subblockCompletion p => exact ⟨_, rfl, hheld ((h.complete p).followFrom s)⟩
  | scanTick => exact ⟨_, rfl, hheld (h.tick.followFrom s)⟩
  | clockLossDeclaration => exact ⟨_, rfl, hif (h.carryOut.loseClock.followFrom s)⟩
  | returnMeasurementStop =>
    refine ⟨_, rfl, ?_⟩
    split
    · exact h.of_eq rfl rfl
    · exact h
  | clockReturnDeclaration =>
    refine ⟨_, rfl, ?_⟩
    split
    · exact h.returnClock.followFrom s
    · exact h
  | cueAssertion l => exact ⟨_, rfl, hif ((h.assertCue l).followFrom s)⟩
  | cueRelease l => exact ⟨_, rfl, hif ((h.releaseCue l).followFrom s)⟩
  | cueLineSample pins => exact ⟨_, rfl, hheld ((h.sampleCues pins).followFrom s)⟩
  | stationAbsence port => exact ⟨_, rfl, h.declareAbsent port⟩
  | interByteTimeout port =>
    refine ⟨_, rfl, ?_⟩
    split
    · exact h.onPort port _
    · exact h
  | messageDiscard port cause =>
    refine ⟨_, rfl, ?_⟩
    split
    · exact hif (h.onPort port _)
    · exact h
  | servingDiscard port =>
    refine ⟨_, rfl, ?_⟩
    split
    · exact h.of_eq rfl rfl
    · exact h
  | responseEnd port =>
    refine ⟨_, rfl, ?_⟩
    split
    · split
      · exact resetTo ..
      · exact h.onPort port _
    · exact h
  | requestedReset =>
    refine ⟨_, rfl, ?_⟩
    split
    · exact resetTo ..
    · exact h
  | byteReceived port b =>
    refine ⟨_, rfl, hheld ?_⟩
    split
    · exact hif (h.onPort port _)
    · exact h.receiveByte port _ b
  | _ => exact request _ _ _ _

theorem idle (h : s.GainsSound) : s.idle.GainsSound := by
  unfold State.idle
  split
  · exact h
  · split <;> exact h.of_eq rfl rfl

end State.GainsSound

/-- Settles O58: the front command keeps the gains sound, and so does an idle cycle. -/
theorem stepKeepsTheGains : Obligations.StepKeepsTheGains := by
  intro s t h ht
  unfold step at ht
  split at ht
  · obtain rfl := Host.Outcome.next.inj ht
    exact h.idle
  · rename_i c rest _
    obtain ⟨u, hu, hs⟩ := State.GainsSound.exec (s := { s with pending := rest }) (h.of_eq rfl rfl) c
    obtain rfl := Host.Outcome.next.inj (hu.symm.trans ht)
    exact hs

end Sys2Proof.Machine

/-! PROOFS. A run of the gain law (R78 to R100): the steering reading, the step of a head and of a lone programme, and supervision. -/

namespace Sys2Proof.Machine

/-! ### The steering reading (R79, R80) -/

theorem Programme.steeringReading_iff (P : Programme) (r : Int) : P.steeringReading = some r ↔
    P.profile.steering = .short ∧ P.readingS = some r ∨
      P.profile.steering = .integrated ∧ (P.readingI = some r ∨ P.readingI = none ∧ P.readingS = some r) := by
  unfold Programme.steeringReading
  cases P.profile.steering with
  | short => simp
  | integrated => cases P.readingI <;> simp

/-- A visit is no hold visit where R and M are present and M reaches the threshold (R80). -/
theorem Programme.nonHold_iff (P : Programme) (r : Int) : P.nonHold = some r ↔
    P.steeringReading = some r ∧ ∃ m, P.readingM = some m ∧ P.profile.holdThreshold ≤ m := by
  unfold Programme.nonHold
  cases P.steeringReading with
  | none => simp
  | some r' => cases P.readingM <;> simp [and_comm]

/-! ### Supervision (R96, R97, R99) -/

section Supervision
variable {P Q : Programme} {size : Int}

theorem Programme.updateDeviation_normal (h : size ≤ P.profile.warnDev) :
    P.updateDeviation size = { P with deviation := .normal, faultCount := 0 } := if_pos h

theorem Programme.updateDeviation_warn (h : P.profile.warnDev < size) (h' : size ≤ P.profile.faultDev) :
    P.updateDeviation size = { P with deviation := .warn, faultCount := 0 } := (if_neg (not_le.2 h)).trans (if_pos h')

theorem Programme.updateDeviation_fault (h : P.profile.warnDev < size) (h' : P.profile.faultDev < size) :
    P.updateDeviation size = { P with
      deviation := if P.profile.faultVisits ≤ satSucc 255 P.faultCount then .fault else .warn
      faultCount := satSucc 255 P.faultCount } := (if_neg (not_le.2 h)).trans (if_neg (not_le.2 h'))

theorem Programme.updateSettle_within (h : size ≤ P.profile.settleTol) : P.updateSettle size = { P with
    settleCount := satSucc 255 P.settleCount
    settled := decide (P.profile.settleCount + 1 ≤ satSucc 255 P.settleCount) } := if_pos h

theorem Programme.updateSettle_beyond (h : P.profile.settleTol < size) :
    P.updateSettle size = { P with settleCount := 0, settled := false } := if_neg (not_le.2 h)

theorem Programme.updateDeviation_frame (size : Int) (P : Programme) : P.updateDeviation size =
    { P with deviation := (P.updateDeviation size).deviation, faultCount := (P.updateDeviation size).faultCount } := by
  simp only [Programme.updateDeviation]
  split
  · rfl
  · split <;> rfl

theorem Programme.updateSettle_frame (size : Int) (P : Programme) : P.updateSettle size =
    { P with settleCount := (P.updateSettle size).settleCount, settled := (P.updateSettle size).settled } := by
  simp only [Programme.updateSettle]
  split <;> rfl

/-- The deviation state reads the slot in service and its own counter alone. -/
theorem Programme.updateDeviation_congr (hf : Q.profile = P.profile) (hc : Q.faultCount = P.faultCount) :
    (Q.updateDeviation size).deviation = (P.updateDeviation size).deviation ∧
    (Q.updateDeviation size).faultCount = (P.updateDeviation size).faultCount := by
  simp only [Programme.updateDeviation, hf, hc]
  split
  · exact ⟨rfl, rfl⟩
  · split <;> exact ⟨rfl, rfl⟩

/-- The settle state reads the slot in service and its own counter alone. -/
theorem Programme.updateSettle_congr (hf : Q.profile = P.profile) (hc : Q.settleCount = P.settleCount) :
    (Q.updateSettle size).settleCount = (P.updateSettle size).settleCount ∧
    (Q.updateSettle size).settled = (P.updateSettle size).settled := by
  simp only [Programme.updateSettle, hf, hc]
  split <;> exact ⟨rfl, rfl⟩

theorem Programme.supervise_absent (h : P.readingS = none) : P.supervise = P := by simp only [Programme.supervise, h]

/-- Where S is present the deviation state is updated, and in ACTIVE the settle state. -/
theorem Programme.supervise_present {x : Int} (h : P.readingS = some x) : let size : Int := |P.deviationOf x|
    P.supervise.deviation = (P.updateDeviation size).deviation ∧ P.supervise.faultCount = (P.updateDeviation size).faultCount ∧
    (P.mode = .active → P.supervise.settleCount = (P.updateSettle size).settleCount ∧
      P.supervise.settled = (P.updateSettle size).settled) ∧
    (P.mode ≠ .active → P.supervise.settleCount = P.settleCount ∧ P.supervise.settled = P.settled) := by
  intro size
  have hsize : ((P.deviationOf x).natAbs : Int) = size := Int.natCast_natAbs _
  have hu := P.updateDeviation_frame size
  have hprofile : (P.updateDeviation size).profile = P.profile := by rw [hu]; rfl
  have hcount : (P.updateDeviation size).settleCount = P.settleCount := by rw [hu]
  have hmode : (P.updateDeviation size).mode = P.mode := by rw [hu]
  simp only [Programme.supervise, h, hsize, hmode]
  split
  · rename_i ha
    have hs := (P.updateDeviation size).updateSettle_frame size
    refine ⟨?_, ?_, fun _ => Programme.updateSettle_congr hprofile hcount, fun hn => absurd ha hn⟩ <;> rw [hs]
  · rename_i hn
    refine ⟨rfl, rfl, fun ha => absurd ha hn, fun _ => ?_⟩
    rw [hu]
    exact ⟨rfl, rfl⟩

/-- A run of `n` deviations above fault_dev (R97). -/
theorem Programme.iterate_updateDeviation (hf : P.profile.InRange) (hc : P.faultCount = 0) (h : P.profile.faultDev < size) {n : Nat}
    (h1 : 1 ≤ n) (hn : n ≤ 255) : (Programme.updateDeviation size)^[n] P =
      { P with deviation := if P.profile.faultVisits ≤ n then .fault else .warn, faultCount := n } := by
  have hw : P.profile.warnDev ≤ P.profile.faultDev := by
    obtain ⟨-, -, -, -, -, -, -, -, -, -, -, -, -, -, -, -, -, -, hw, -⟩ := hf
    exact hw
  induction n, h1 using Nat.le_induction with
  | base =>
    rw [Function.iterate_one, Programme.updateDeviation_fault (hw.trans_lt h) h, hc]
    rfl
  | succ n _ ih =>
    rw [Function.iterate_succ_apply', ih (by omega)]
    have hs : satSucc 255 n = n + 1 := min_eq_right hn
    rw [Programme.updateDeviation_fault (P := { P with deviation := _, faultCount := n }) (hw.trans_lt h) h]
    simp only [hs]
    rfl

/-- A run of `n` deviations within settle_tol (R99). -/
theorem Programme.iterate_updateSettle (hc : P.settleCount = 0) (h : size ≤ P.profile.settleTol) {n : Nat} (h1 : 1 ≤ n)
    (hn : n ≤ 255) : (Programme.updateSettle size)^[n] P =
      { P with settleCount := n, settled := decide (P.profile.settleCount + 1 ≤ n) } := by
  induction n, h1 using Nat.le_induction with
  | base =>
    rw [Function.iterate_one, Programme.updateSettle_within h, hc]
    rfl
  | succ n _ ih =>
    rw [Function.iterate_succ_apply', ih (by omega)]
    have hs : satSucc 255 n = n + 1 := min_eq_right hn
    rw [Programme.updateSettle_within (P := { P with settleCount := n, settled := _ }) h]
    simp only [hs]
    rfl

end Supervision

/-! ### The step (R83, R91) -/

/-- `s` with the desired gain of the reading `r` stored for `p` (R81). -/
def State.withGd (s : State) (p : Prog) (r : Int) : State := s.onProg p fun P => { P with gd := some (P.desiredGain r) }

/-- `s` with Gd stored and the step of a head taken, before supervision. -/
def State.stepped (s : State) (p : Prog) (r : Int) : State :=
  if (s.withGd p r).head p = some p then (s.withGd p r).stepGroup p else s.withGd p r

section Step
variable {s : State} {p : Prog} {r : Int}

theorem State.gainLaw_nonHold (h : (s.prog p).nonHold = some r) :
    s.gainLaw p = ((s.stepped p r).onProg p Programme.supervise).fireSettled s p := by
  simp only [State.gainLaw, h]
  rfl

theorem State.prog_withGd (s : State) (p : Prog) (r : Int) (q : Prog) : (s.withGd p r).prog q =
    { s.prog q with gd := if q = p then some ((s.prog p).desiredGain r) else (s.prog q).gd } := by
  rw [State.withGd, State.prog_onProg]
  split
  · rename_i e
    rw [e]
  · rfl

theorem State.activeGroup_withGd (s : State) (p : Prog) (r : Int) (q : Prog) : (s.withGd p r).activeGroup q = s.activeGroup q := by
  have hmode : ∀ a, ((s.withGd p r).prog a).mode = (s.prog a).mode := fun a => by rw [State.prog_withGd]
  simp only [State.activeGroup, hmode]
  rfl

theorem State.head_withGd (s : State) (p : Prog) (r : Int) (q : Prog) : (s.withGd p r).head q = s.head q := by
  rw [State.head, State.head, State.activeGroup_withGd]

theorem State.intoGroup_withGd (s : State) (p : Prog) (r : Int) (q : Prog) (g : Int) :
    (s.withGd p r).intoGroup q g = s.intoGroup q g := by
  have hprofile : ∀ a, ((s.withGd p r).prog a).profile = (s.prog a).profile := fun a => by rw [State.prog_withGd]; rfl
  simp only [State.intoGroup, State.groupMin, State.groupMax, State.activeGroup_withGd, hprofile]

theorem State.prog_gainLaw_nonHold (h : (s.prog p).nonHold = some r) (q : Prog) : (s.gainLaw p).prog q =
    if q = p then ((s.stepped p r).prog q).supervise else (s.stepped p r).prog q := by
  rw [State.gainLaw_nonHold h, State.fireSettled, State.prog_fireIf, State.prog_onProg]

/-- A programme that is not head moves no gain. -/
theorem State.stepped_other (h : s.head p ≠ some p) : s.stepped p r = s.withGd p r := by
  rw [State.stepped, State.head_withGd, if_neg h]

/-- `low` is the lowest Gd present among the ACTIVE members of the group of `p`, that of `p` being the one of the reading `r`. -/
structure State.LowestGd (s : State) (p : Prog) (r low : Int) : Prop where
  present : low = (s.prog p).desiredGain r ∨ ∃ q ∈ s.activeGroup p, q ≠ p ∧ (s.prog q).gd = some low
  own : low ≤ (s.prog p).desiredGain r
  others : ∀ q ∈ s.activeGroup p, q ≠ p → ∀ g, (s.prog q).gd = some g → low ≤ g

/-- A head moves its group toward the lowest Gd present, limited into the intersection. -/
theorem State.stepped_head (h : s.head p = some p) : ∃ low, s.LowestGd p r low ∧ s.stepped p r =
    (s.withGd p r).moveGroup p (stepToward (s.prog p).profile (s.prog p).gcur (s.intoGroup p low)) := by
  have hp := State.mem_of_head h
  have hself : ((s.withGd p r).prog p).gd = some ((s.prog p).desiredGain r) := by rw [State.prog_withGd, if_pos rfl]
  have hother : ∀ q, q ≠ p → ((s.withGd p r).prog q).gd = (s.prog q).gd := fun q hq => by rw [State.prog_withGd, if_neg hq]
  have hmem : ∀ g, g ∈ (s.activeGroup p).filterMap (fun q => ((s.withGd p r).prog q).gd) ↔
      ∃ q ∈ s.activeGroup p, ((s.withGd p r).prog q).gd = some g := fun g => List.mem_filterMap
  rw [State.stepped, State.head_withGd, if_pos h, State.stepGroup, State.groupTarget, State.activeGroup_withGd]
  cases hm : ((s.activeGroup p).filterMap fun q => ((s.withGd p r).prog q).gd).min? with
  | none =>
    rw [List.min?_eq_none_iff] at hm
    have := (hmem _).2 ⟨p, hp, hself⟩
    simp [hm] at this
  | some low =>
    obtain ⟨hin, hle⟩ := List.min?_eq_some_iff.1 hm
    obtain ⟨q, hq, hg⟩ := (hmem low).1 hin
    refine ⟨low, ⟨?_, hle _ ((hmem _).2 ⟨p, hp, hself⟩), fun q hq hqp g hg =>
      hle g ((hmem g).2 ⟨q, hq, (hother q hqp).trans hg⟩)⟩, ?_⟩
    · by_cases e : q = p
      · exact .inl (Option.some.inj (hg.symm.trans (e ▸ hself)))
      · exact .inr ⟨q, hq, e, (hother q e).symm.trans hg⟩
    · simp only [Option.map_some, State.intoGroup_withGd, State.prog_withGd]
      rfl

/-- The step changes of its programme Gd, the gain and the output stage. -/
theorem State.prog_stepped_self (s : State) (p : Prog) (r : Int) : (s.stepped p r).prog p = { s.prog p with
    gd := some ((s.prog p).desiredGain r)
    gcur := ((s.stepped p r).prog p).gcur
    out := ((s.stepped p r).prog p).out } := by
  have hself : (s.withGd p r).prog p = { s.prog p with gd := some ((s.prog p).desiredGain r) } := by
    rw [State.prog_withGd, if_pos rfl]
  have hstep := ((s.withGd p r).prog_stepGroup p p).1
  rw [hself] at hstep
  unfold State.stepped
  split
  · exact hstep
  · rw [hself]

end Step

end Sys2Proof.Machine

/-! PROOFS. The statements about a run of the gain law: a head and its group, a lone programme, and supervision (R78 to R104). -/

namespace Sys2Proof.Machine

section Run
variable {s : State} {p : Prog} {r : Int}

theorem Programme.supervise_out (P : Programme) : P.supervise.out = P.out := by rw [P.supervise_frame]

/-- Supervision moves no gain and starts no ramp. -/
theorem State.gain_gainLaw (h : (s.prog p).nonHold = some r) (q : Prog) :
    ((s.gainLaw p).prog q).gcur = ((s.stepped p r).prog q).gcur ∧ ((s.gainLaw p).prog q).out = ((s.stepped p r).prog q).out := by
  rw [State.prog_gainLaw_nonHold h]
  split
  · exact ⟨(Programme.SameGains.supervise _).gcur, Programme.supervise_out _⟩
  · exact ⟨rfl, rfl⟩

/-- A non-hold visit stores Gd (R81). -/
theorem State.gd_gainLaw (h : (s.prog p).nonHold = some r) : ((s.gainLaw p).prog p).gd = some ((s.prog p).desiredGain r) := by
  rw [State.prog_gainLaw_nonHold h, if_pos rfl, (Programme.SameGains.supervise _).gd, State.prog_stepped_self]

/-- A programme that is not head stores Gd and is supervised, and nothing else moves (R91). -/
theorem State.gainLaw_other (h : (s.prog p).nonHold = some r) (hh : s.head p ≠ some p) :
    ((s.gainLaw p).prog p).gcur = (s.prog p).gcur ∧ ((s.gainLaw p).prog p).out = (s.prog p).out ∧
    ∀ q, q ≠ p → (s.gainLaw p).prog q = s.prog q := by
  obtain ⟨hg, ho⟩ := State.gain_gainLaw h p
  rw [State.stepped_other hh, State.prog_withGd] at hg ho
  refine ⟨hg, ho, fun q hq => ?_⟩
  rw [State.prog_gainLaw_nonHold h, if_neg hq, State.stepped_other hh, State.prog_withGd, if_neg hq]

/-- A head moves every ACTIVE member to one gain, with the ramp of those whose gain changes (R85, R91, R104). -/
theorem State.gainLaw_head (h : (s.prog p).nonHold = some r) (hh : s.head p = some p) : ∃ low, s.LowestGd p r low ∧
    ∀ q ∈ s.activeGroup p, ((s.gainLaw p).prog q).gcur =
        stepToward (s.prog p).profile (s.prog p).gcur (max (s.groupMin p) (min (s.groupMax p) low)) ∧
      ((s.gainLaw p).prog q).out =
        if ((s.gainLaw p).prog q).gcur = (s.prog q).gcur then (s.prog q).out
        else { (s.prog q).out with
          ramp := some { start := (s.prog q).out.applied, fin := factor ((s.gainLaw p).prog q).gcur, left := 480 } } := by
  obtain ⟨low, hlow, hstep⟩ := State.stepped_head (s := s) (p := p) (r := r) hh
  refine ⟨low, hlow, fun q hq => ?_⟩
  have hon : ((s.withGd p r).prog q).mode ≠ .off := by
    rw [State.prog_withGd]
    simp [((State.mem_activeGroup ..).1 hq).2]
  obtain ⟨hg, ho⟩ := State.gain_gainLaw h q
  rw [hstep, State.prog_moveGroup, if_pos (by rwa [State.activeGroup_withGd]), Programme.moveGain_on hon, State.prog_withGd] at hg ho
  refine ⟨hg, ?_⟩
  rw [hg]
  exact ho

/-- Programmes outside the group of an ACTIVE programme stand. -/
theorem State.gainLaw_outside (ha : (s.prog p).mode = .active) {q : Prog} (hq : q ∉ s.activeGroup p) :
    (s.gainLaw p).prog q = s.prog q :=
  have hp : p ∈ s.activeGroup p := (State.mem_activeGroup ..).2 ⟨s.sameGroup_refl p, ha⟩
  ((s.prog_gainLaw p q).2 fun e => hq (e ▸ hp)).2 hq

end Run

/-- Settles O26: a hold visit, a member that is not head, and the head. -/
theorem headMovesTheGroup : Obligations.HeadMovesTheGroup := by
  intro s p ha t
  refine ⟨State.gainLaw_hold, fun r h hh => State.gainLaw_other h hh, fun r h hh => ?_⟩
  obtain ⟨low, hlow, hmembers⟩ := State.gainLaw_head h hh
  exact ⟨low, hlow.present, hlow.own, hlow.others, hmembers, fun q hq => ((s.prog_gainLaw p q).2 hq).1,
    fun q hq => State.gainLaw_outside ha hq⟩

/-- The ends of the intersection of a group of one (R86). -/
theorem State.groupBounds_alone {s : State} {p : Prog} (h : s.activeGroup p = [p]) (hf : (s.prog p).profile.InRange) :
    s.groupMin p = (s.prog p).profile.gainMin ∧ s.groupMax p = (s.prog p).profile.gainMax := by
  obtain ⟨lo, hi⟩ := hf.bounds
  simp only [State.groupMin, State.groupMax, h, List.foldl_cons, List.foldl_nil]
  exact ⟨max_eq_right lo, min_eq_right hi⟩

/-- Settles O25: a lone programme is the head of its group, whose lowest Gd and whose intersection are its own. -/
theorem loneProgrammeSteps : Obligations.LoneProgrammeSteps := by
  intro s p r P f d ha h hg hf lo hi Q
  have hd : P.desiredGain r = d := rfl
  obtain ⟨dlo, dhi⟩ : f.gainMin ≤ d ∧ d ≤ f.gainMax := limit_bounds (lo.trans hi) _
  obtain ⟨low, hlow, hmembers⟩ := State.gainLaw_head h (by rw [State.head, hg]; rfl)
  have hlowd : low = d := by
    rcases hlow.present with e | ⟨q, hq, hqp, -⟩
    · exact e.trans hd
    · exact absurd (by simpa [hg] using hq) hqp
  obtain ⟨hgain, hout⟩ := hmembers p (by simp [hg])
  obtain ⟨hmin, hmax⟩ := State.groupBounds_alone hg hf
  have hstep : Q.gcur = stepToward f P.gcur d := by
    refine hgain.trans (congrArg (stepToward f P.gcur) ?_)
    rw [hmin, hmax, hlowd]
    exact limit_eq dlo dhi
  obtain ⟨blo, bhi⟩ := stepToward_between hf P.gcur d
  rw [← hstep] at blo bhi
  refine ⟨State.gd_gainLaw h, fun h1 h2 => ?_, fun h1 => ?_, fun h1 => ?_, (le_min lo dlo).trans blo, bhi.trans (max_le hi dhi),
    fun hne => hout.trans (if_neg hne), fun q hq => State.gainLaw_outside ha (by simpa [hg] using hq)⟩
  · have hstay : Q.gcur = P.gcur := by rw [hstep, stepToward, if_neg (not_lt.2 h2), if_neg (not_lt.2 h1)]
    exact ⟨hstay, hout.trans (if_pos hstay)⟩
  · rw [hstep, stepToward, if_pos h1]
  · have hband : ¬ f.deadband < d - P.gcur := by
      obtain ⟨-, -, -, -, -, -, -, -, -, -, -, -, hband, -⟩ := hf
      omega
    rw [hstep, stepToward, if_neg hband, if_pos h1]

/-- The supervision of a non-hold visit (R84, R96, R97, R99). -/
theorem State.supervision_gainLaw {s : State} {p : Prog} {r : Int} (h : (s.prog p).nonHold = some r) :
    let P := s.prog p
    let Q := (s.gainLaw p).prog p
    (P.readingS = none → Q.deviation = P.deviation ∧ Q.faultCount = P.faultCount ∧
      Q.settleCount = P.settleCount ∧ Q.settled = P.settled) ∧
    (∀ x, P.readingS = some x →
      let size : Int := |P.profile.target - (x + if P.mode = .active then Q.gcur else 0)|
      Q.deviation = (P.updateDeviation size).deviation ∧ Q.faultCount = (P.updateDeviation size).faultCount ∧
      (P.mode = .active → Q.settleCount = (P.updateSettle size).settleCount ∧ Q.settled = (P.updateSettle size).settled) ∧
      (P.mode ≠ .active → Q.settleCount = P.settleCount ∧ Q.settled = P.settled)) := by
  intro P Q
  have hQ : Q = ((s.stepped p r).prog p).supervise := (State.prog_gainLaw_nonHold h p).trans (if_pos rfl)
  have hgain : Q.gcur = ((s.stepped p r).prog p).gcur := (State.gain_gainLaw h p).1
  have hX := s.prog_stepped_self p r
  generalize (s.stepped p r).prog p = X at hQ hgain hX
  have hprofile : X.profile = P.profile := by rw [hX]; rfl
  have hmode : X.mode = P.mode := by rw [hX]
  have hcounts : X.faultCount = P.faultCount ∧ X.settleCount = P.settleCount ∧ X.deviation = P.deviation ∧
      X.settled = P.settled ∧ X.readingS = P.readingS := by rw [hX]; exact ⟨rfl, rfl, rfl, rfl, rfl⟩
  obtain ⟨hfault, hsettle, hdev, hset, hS⟩ := hcounts
  refine ⟨fun hn => ?_, fun x hx => ?_⟩
  · rw [hQ, Programme.supervise_absent (hS.trans hn)]
    exact ⟨hdev, hfault, hsettle, hset⟩
  · intro size
    have hsize : |X.deviationOf x| = size := by rw [Programme.deviationOf, hprofile, hmode, ← hgain]
    obtain ⟨dev, fault, active, inactive⟩ := Programme.supervise_present (hS.trans hx)
    rw [hsize, hmode] at active
    rw [hmode, hsettle, hset] at inactive
    rw [hsize] at dev fault
    obtain ⟨cdev, cfault⟩ := Programme.updateDeviation_congr (size := size) hprofile hfault
    obtain ⟨csettle, cset⟩ := Programme.updateSettle_congr (size := size) hprofile hsettle
    rw [cdev] at dev
    rw [cfault] at fault
    rw [csettle, cset] at active
    rw [hQ]
    exact ⟨dev, fault, active, inactive⟩

/-- Settles O27: the classification of a visit, one run of the law, and runs of deviations. -/
theorem supervisionCountsVisits : Obligations.SupervisionCountsVisits := by
  refine ⟨fun P r => ?_, fun s p => ?_, fun P size n hf h1 hn => ?_⟩
  · rw [Programme.nonHold_iff, Programme.steeringReading_iff]
  · refine ⟨State.gainLaw_hold, fun r h => ?_⟩
    obtain ⟨absent, present⟩ := State.supervision_gainLaw h
    refine ⟨s.gainLaw_frame p, fun q => ?_, ?_, absent, present, fun hm => ?_⟩
    · rw [s.notice_gainLaw p q, bne, beq_eq_decide, decide_not]
    · have hself := (s.prog_gainLaw p p).1
      rw [State.gd_gainLaw h] at hself
      exact hself
    · refine State.gainLaw_other h fun hh => ?_
      have ha := ((State.mem_activeGroup ..).1 (State.mem_of_head hh)).2
      exact Mode.noConfusion (hm.symm.trans ha)
  · refine ⟨fun hc h => ?_, Programme.updateDeviation_warn, Programme.updateDeviation_normal, fun hc h => ?_,
      Programme.updateSettle_beyond⟩
    · rw [Programme.iterate_updateDeviation hf hc h h1 hn]
      refine ⟨rfl, ?_, fun hlt => if_neg (not_le.2 hlt)⟩
      dsimp only
      split <;> simp [*]
    · rw [Programme.iterate_updateSettle hc h h1 hn]
      exact ⟨rfl, decide_eq_true_iff⟩

end Sys2Proof.Machine

/-! PROOFS. FORCE_SLOT and SET_LINK (R88 to R90, R94, R138, R140). -/

namespace Sys2Proof.Machine

/-! ### FORCE_SLOT -/

/-- An operation of the audio side whose notices are always those of the events of `fired` fires them. -/
theorem AudioOp.fires {g : State → State} (hg : AudioOp g) {fired : SourceSet} (hn : ∀ u q, (g u).notice q =
    { u.notice q with pending := (u.notice q).pending ||| ((u.notice q).mask &&& fired) }) (s : State) : s.Fires g fired := fun o => by
  obtain ⟨a, ha⟩ := hg s
  rw [ha o]
  refine State.ext_fields rfl rfl rfl rfl rfl rfl rfl rfl rfl rfl rfl rfl rfl rfl (State.notices_ext fun q => ?_) rfl
  refine (congrArg (State.notice · q) (ha o)).symm.trans ((hn _ q).trans ?_)
  exact (o.notice_fireSet fired q).symm

theorem State.fires_switchSlot (s : State) (p : Prog) : s.Fires (State.switchSlot · p) Source.slotSwitched.bit :=
  (audioOp_switchSlot p).fires (fun u q => u.notice_switchSlot p q) s

theorem otherSlot_of_ne {i j : Slot} (h : i ≠ j) : otherSlot i = j := by revert i j; decide

theorem serveForceSlot_ready {s : State} {port : Port} {target : Byte} {p : Prog} (i : Slot)
    (h : s.ReadyHolder port (progRecord p)) (ht : target.toNat = p.val) : serveForceSlot port target [count8 i.val] (s.hear port) =
      done (if (s.prog p).inService = i then s.hear port else (s.hear port).switchSlot p) := by
  rw [serveForceSlot, needFull_full (by rw [State.access_hear]; exact h.1.2), needSize_eq (n := 1) rfl, needBelow_eq ht, byteAt_cons_zero,
    needBelow_eq (i := i) (count8_fin (by decide) i), needClaim_held (by rw [State.holder_hear]; exact h.2)]
  rfl

section Switched
variable {s : State} {p : Prog} {i : Slot}

/-- In MEASURE a change of slot moves no gain (R94). -/
theorem State.switched_measure (hm : (s.prog p).mode = .measure) (q : Prog) :
    s.switched p i q = if q = p then { s.prog q with inService := i } else s.prog q := by
  rw [State.switched_eq, State.switchedGain, State.switchedOut]
  simp only [hm, reduceCtorEq, false_and, if_false]
  split <;> rfl

/-- In OFF a change of slot limits the programme's own gain, and leaves its output stage (R94). -/
theorem State.switched_off (hm : (s.prog p).mode = .off) (q : Prog) :
    s.switched p i q = if q = p then { s.prog q with inService := i, gcur := s.gainUnder p i } else s.prog q := by
  rw [State.switched_eq, State.switchedGain, State.switchedOut]
  simp only [hm, reduceCtorEq, false_and, true_and, if_false]
  split <;> rfl

/-- In ACTIVE a change of slot gives every ACTIVE member of the group the gain limited into the new bounds (R94). -/
theorem State.switched_member (hm : (s.prog p).mode = .active) {q : Prog} (hs : s.sameGroup p q = true)
    (hq : (s.prog q).mode = .active) : s.switched p i q = { s.prog q with
      inService := if q = p then i else (s.prog q).inService
      gcur := s.gainUnder p i
      out := if s.gainUnder p i = (s.prog p).gcur then (s.prog q).out else (s.prog q).out.startRamp (factor (s.gainUnder p i)) } := by
  rw [State.switched_eq, State.switchedGain, State.switchedOut, if_pos ⟨hm, hq, hs⟩, if_pos ⟨hm, hq, hs⟩]

/-- In ACTIVE a change of slot leaves the programmes outside the group (R94). -/
theorem State.switched_outside (hm : (s.prog p).mode = .active) {q : Prog}
    (hq : s.sameGroup p q = false ∨ (s.prog q).mode ≠ .active) : s.switched p i q = s.prog q := by
  have hout : ¬ ((s.prog p).mode = .active ∧ (s.prog q).mode = .active ∧ s.sameGroup p q = true) := fun ⟨_, ha, hs⟩ =>
    hq.elim (fun hf => by simp [hs] at hf) fun hn => hn ha
  have hqp : q ≠ p := fun e => hout ⟨hm, e ▸ hm, e ▸ s.sameGroup_refl q⟩
  rw [State.switched_eq, State.switchedGain, State.switchedOut, if_neg hout, if_neg hout, if_neg hqp,
    if_neg fun h => hqp h.2]

end Switched

/-- Settles O44: the slot in service already, or the change to the other slot by the mode. -/
theorem forceSlotSwitchesAndClamps : Obligations.ForceSlotSwitchesAndClamps := by
  intro s port target p i h ht hg P
  have hserve := serveForceSlot_ready i h ht
  refine ⟨fun hi => ?_, fun hi => ?_⟩
  · rw [if_pos hi] at hserve
    obtain ⟨t, hx, hr, -⟩ := State.takeMessage_refuses 0x25 target h.1.1 (by simp) hserve
    exact ⟨t, congrArg Host.Outcome.next hx, hr⟩
  · rw [if_neg hi] at hserve
    obtain ⟨t, hx, ha, hte⟩ := State.takeMessage_fires 0x25 target h.1.1 (by simp) hserve (s.fires_switchSlot p)
    have hprog : ∀ q, t.prog q = s.switched p i q := fun q => by
      rw [← otherSlot_of_ne hi, ← State.switchSlot_switched hg p q, hte]
      rfl
    refine ⟨t, congrArg Host.Outcome.next hx, ha, ?_, ?_, ?_⟩
    · rw [hte, s.switchSlot_frame p]
    · rw [hprog, State.switched_eq]
      exact if_pos rfl
    intro into
    refine ⟨fun hm => ?_, fun hm => ?_, fun hm q => ⟨fun hs hq => ?_, fun hn => ?_⟩⟩
    · have hq := fun q => (hprog q).trans (State.switched_measure hm q)
      exact ⟨(hq p).trans (if_pos rfl), fun q hqp => (hq q).trans (if_neg hqp)⟩
    · have hq := fun q => (hprog q).trans (State.switched_off hm q)
      exact ⟨(hq p).trans (if_pos rfl), fun q hqp => (hq q).trans (if_neg hqp)⟩
    · exact (hprog q).trans (State.switched_member hm hs hq)
    · exact (hprog q).trans (State.switched_outside hm hn)

/-! ### SET_LINK -/

theorem State.setLink_within (s o : State) (k : LinkFlag) (b : Bool) : (s.within o).setLink k b = (s.setLink k b).within o := by
  rw [State.setLink_eq, State.setLink_eq, show (s.within o).link k.val = s.link k.val from rfl]
  split
  · rfl
  split
  · exact (s.withLink k b).joinGroup_within o _
  · rfl

theorem State.link_eq (s : State) (k : LinkFlag) : s.link k.val = s.links[k] := dif_pos k.isLt

/-- SET_LINK changes the flag and the programmes alone. -/
theorem State.setLink_frame (s : State) (k : LinkFlag) (b : Bool) :
    s.setLink k b = { s with progs := (s.setLink k b).progs, links := s.links.set k.val b } := by
  rw [State.setLink_eq]
  split
  · rename_i hb
    have hset : s.links.set k.val b = s.links := by
      rw [← hb, State.link_eq]
      exact Vector.set_getElem_self ..
    rw [hset]
  split
  · rw [State.joinGroup_frame]
    rfl
  · rfl

/-- A flag that has the setting, or is cleared, leaves every programme. -/
theorem State.prog_setLink_stay {s : State} {k : LinkFlag} {b : Bool} (h : b = false ∨ s.links[k] = true) (q : Prog) :
    (s.setLink k b).prog q = s.prog q := by
  rw [State.setLink_eq, State.link_eq]
  split
  · rfl
  · rename_i hb
    cases b with
    | false => rfl
    | true => exact absurd (h.resolve_left (by simp)) hb

/-- The joined group takes the lowest gain of its ACTIVE members, raised to their highest gain_min (R89). -/
theorem State.joinGroup_lowest {u : State} {p r : Prog} (h : ∀ q, (u.prog q).GainSound) (hr : r ∈ u.activeGroup p) :
    ∃ low ∈ u.activeGroup p, ∃ lift ∈ u.activeGroup p,
      (∀ q ∈ u.activeGroup p, (u.prog low).gcur ≤ (u.prog q).gcur ∧ (u.prog q).profile.gainMin ≤ (u.prog lift).profile.gainMin) ∧
      u.joinGroup p = u.moveGroup p (max (u.prog lift).profile.gainMin (u.prog low).gcur) := by
  obtain ⟨low, hlow, hle, hj⟩ := State.joinGroup_some hr
  obtain ⟨lift, hlift, hmin⟩ := State.groupMin_eq hr fun q => (h q).profile.bounds.1
  obtain ⟨top, htop, hmax⟩ := State.groupMax_eq hr fun q => (h q).profile.bounds.2
  have hbelow : (u.prog low).gcur ≤ u.groupMax p := (hle top htop).trans (hmax ▸ (h top).bounds.2)
  refine ⟨low, hlow, lift, hlift, fun q hq => ⟨hle q hq, hmin ▸ State.groupMin_ge hq⟩, hj.trans (congrArg (u.moveGroup p) ?_)⟩
  rw [State.intoGroup, limit, min_eq_right hbelow, hmin]

theorem serveSetLink_ready {s : State} {port : Port} {target : Byte} {k : LinkFlag} (b : Bool) (h : s.ReadyFull port)
    (ht : target.toNat = k.val) (h1 : s.holder (progRecord k.castSucc) = some port)
    (h2 : s.holder (progRecord k.succ) = some port) :
    serveSetLink port target [if b then 1 else 0] (s.hear port) = done ((s.hear port).setLink k b) := by
  rw [serveSetLink, needFull_full (by rw [State.access_hear]; exact h.2), needSize_eq (n := 1) rfl, needBelow_eq ht,
    byteAt_cons_zero, needValue_some (boolOf_ofBool b), needClaim_held (by rw [State.holder_hear]; exact h1),
    needClaim_held (by rw [State.holder_hear]; exact h2)]

/-- Settles O46: the flag that stays or is cleared, and the group that a set flag joins. -/
theorem linkJoinsAndSplits : Obligations.LinkJoinsAndSplits := by
  intro s port target k b h ht h1 h2 hg
  obtain ⟨t, hx, ha, hte⟩ := State.takeMessage_fires (g := (State.setLink · k b)) 0x2B target h.1 (by simp)
    (serveSetLink_ready b h ht h1 h2) (.quiet fun o => s.setLink_within o k b)
  have hframe : t = { s with ports := t.ports, notices := t.notices, progs := t.progs, links := s.links.set k.val b } := by
    rw [hte, s.setLink_frame k b]
  have hprog : ∀ q, t.prog q = (s.setLink k b).prog q := fun q => by rw [hte]; rfl
  refine ⟨t, congrArg Host.Outcome.next hx, ha, hframe, fun hstay q => (hprog q).trans (State.prog_setLink_stay hstay q),
    fun hb hk => ?_⟩
  subst hb
  have hset : s.setLink k true = (s.withLink k true).joinGroup k.castSucc := by
    rw [State.setLink_eq, State.link_eq, hk]
    rfl
  have hlinks : t.links = (s.withLink k true).links := by rw [hframe]; rfl
  have hmem : ∀ q, q ∈ (s.withLink k true).activeGroup k.castSucc ↔
      t.sameGroup k.castSucc q = true ∧ (s.prog q).mode = .active := fun q => by
    rw [State.mem_activeGroup, State.sameGroup_congr hlinks, State.prog_withLink]
  have hother : ∀ q, q ∉ (s.withLink k true).activeGroup k.castSucc → t.prog q = s.prog q := fun q hq => by
    rw [hprog, hset]
    rcases (s.withLink k true).joinGroup_cases k.castSucc with e | ⟨g, e⟩ <;> rw [e]
    · rfl
    · rw [State.prog_moveGroup, if_neg hq, State.prog_withLink]
  refine ⟨fun q hn => hother q fun hq => ?_, fun q hs hq => ?_⟩
  · obtain ⟨hs, hq⟩ := (hmem q).1 hq
    exact hn.elim (fun hf => by simp [hs] at hf) fun hf => hf hq
  · obtain ⟨low, hlow, lift, hlift, hends, hj⟩ := State.joinGroup_lowest (u := s.withLink k true) hg.prog ((hmem q).2 ⟨hs, hq⟩)
    have hmoved : ∀ a, t.sameGroup k.castSucc a = true → (s.prog a).mode = .active →
        t.prog a = (s.prog a).moveGain (max (s.prog lift).profile.gainMin (s.prog low).gcur) := fun a hs ha => by
      rw [hprog, hset, hj, State.prog_moveGroup, if_pos ((hmem a).2 ⟨hs, ha⟩)]
      rfl
    obtain ⟨hlowGroup, hlowActive⟩ := (hmem low).1 hlow
    obtain ⟨hliftGroup, hliftActive⟩ := (hmem lift).1 hlift
    refine ⟨⟨low, lift, hlowActive, hlowGroup, hliftActive, hliftGroup, fun a hs ha => ?_⟩, ?_⟩
    · obtain ⟨hle, hmin⟩ := hends a ((hmem a).2 ⟨hs, ha⟩)
      exact ⟨hle, hmin, by rw [hmoved a hs ha, Programme.moveGain_gcur]⟩
    · rw [hmoved q hs hq, Programme.moveGain_gcur]
      exact Programme.moveGain_on (by simp [hq]) _

end Sys2Proof.Machine

/-! PROOFS. The gain factor and the limiter's reductions against real powers and logarithms (R102, R109). -/

namespace Sys2Proof.Machine

/-! ### The gain factor (R102) -/

/-- An odd number is no `2^k * 10^(e/n)`: its `n`-th power would be even, or times a power of ten a power of two. -/
theorem odd_ne_pow10 {m : Int} (hm : Odd m) {k n : Nat} (hk : k ≠ 0) (hn : n ≠ 0) (e : Int) :
    (m : ℝ) ≠ 2 ^ k * (10 : ℝ) ^ ((e : ℝ) / n) := by
  intro h
  have hpow : (m : ℝ) ^ n = 2 ^ (k * n) * (10 : ℝ) ^ e := by
    rw [h, mul_pow, ← pow_mul, ← Real.rpow_mul_natCast (by norm_num), div_mul_cancel₀ _ (by exact_mod_cast hn),
      Real.rpow_intCast]
  cases e with
  | ofNat j =>
    rw [Int.ofNat_eq_natCast, zpow_natCast] at hpow
    have hint : m ^ n = 2 ^ (k * n) * 10 ^ j := by exact_mod_cast hpow
    have heven : Even (m ^ n) := hint ▸ (even_two.pow_of_ne_zero (mul_ne_zero hk hn)).mul_right _
    exact Int.not_even_iff_odd.2 hm.pow heven
  | negSucc j =>
    rw [zpow_negSucc, ← div_eq_mul_inv, eq_div_iff (by positivity)] at hpow
    have hint : m ^ n * 10 ^ (j + 1) = 2 ^ (k * n) := by exact_mod_cast hpow
    have hfive : (5 : Int) ∣ 2 ^ (k * n) := hint ▸ (dvd_pow (by norm_num) j.succ_ne_zero).mul_left _
    have hprime : Prime (5 : Int) := by norm_num
    exact absurd (hprime.dvd_of_dvd_pow hfive) (by norm_num)

theorem factorPower_lt {g : Int} (hg : g ≤ 1200) : 2 ^ 22 * (10 : ℝ) ^ ((g : ℝ) / (2000 : Nat)) < 2 ^ 24 := by
  have htop : 2 ^ 22 * (10 : ℝ) ^ (((1200 : Int) : ℝ) / (2000 : Nat)) < ((2 ^ 24 : Nat) : ℝ) :=
    not_le.1 (mt (powBelow_iff (by norm_num) 22 1200 (2 ^ 24)).2 (by decide +kernel))
  have hexp : (g : ℝ) / (2000 : Nat) ≤ ((1200 : Int) : ℝ) / (2000 : Nat) := by gcongr
  have hpow := Real.rpow_le_rpow_of_exponent_le (x := 10) (by norm_num) hexp
  have hcast : ((2 ^ 24 : Nat) : ℝ) = 2 ^ 24 := by norm_num
  linarith

/-- The factor is an integer nearest to its power, and the power is never half-way between two (R102). -/
theorem factor_rounds {g : Int} (hg : g ≤ 1200) : |(factor g : ℝ) - 2 ^ 22 * (10 : ℝ) ^ ((g : ℝ) / 2000)| < 1 / 2 := by
  have hpower : (10 : ℝ) ^ ((g : ℝ) / 2000) = (10 : ℝ) ^ ((g : ℝ) / (2000 : Nat)) := by norm_num
  rw [hpower]
  refine lt_of_le_of_ne (by rw [factor]; exact nearestPow10_rounds (by norm_num) (factorPower_lt hg)) fun hhalf => ?_
  have hodd : ∀ m : Int, Odd m → (m : ℝ) ≠ 2 ^ 23 * (10 : ℝ) ^ ((g : ℝ) / (2000 : Nat)) :=
    fun m hm => odd_ne_pow10 hm (by norm_num) (by norm_num) g
  rcases (abs_eq (by norm_num)).1 hhalf with h | h
  · refine hodd (2 * factor g - 1) ⟨factor g - 1, by ring⟩ ?_
    push_cast
    linarith
  · refine hodd (2 * factor g + 1) ⟨factor g, rfl⟩ ?_
    push_cast
    linarith

theorem factor_mono {g h : Int} (hgh : g ≤ h) (hh : h ≤ 1200) : factor g ≤ factor h := by
  rw [factor, factor]
  exact nearestPow10_mono (by norm_num) hgh (factorPower_lt hh)

theorem factor_lowest : factor (-2400) = 264643 := by decide +kernel

theorem factor_highest : factor 1200 = 16697825 := by decide +kernel

/-- Settles O20: the rounding, the range by the ends of the gains, and the table. -/
theorem factorRoundsThePower : Obligations.FactorRoundsThePower := by
  refine ⟨fun g hlo hhi => ⟨factor_rounds hhi, factor_lowest ▸ factor_mono hlo hhi, factor_highest ▸ factor_mono hhi le_rfl⟩,
    factor_lowest, ?_, ?_, ?_, ?_, factor_zero, ?_, factor_highest⟩ <;> decide +kernel

/-! ### The reductions of the limiter (R109) -/

/-- Above the ceiling value the logarithm is positive. -/
theorem logb_ratio_pos {c m : Nat} (hc : 1 ≤ c) (hlt : c < m) : 0 < 2000 * Real.logb 10 (m / c) := by
  have hc' : (0 : ℝ) < c := by exact_mod_cast hc
  have hratio : (1 : ℝ) < m / c := (one_lt_div hc').2 (by exact_mod_cast hlt)
  exact mul_pos (by norm_num) (Real.logb_pos (by norm_num) hratio)

/-- The largest magnitude lies less than 24.01 dB above the lowest ceiling value. -/
theorem logb_ratio_le {c m : Nat} (hc : 2107123 ≤ c) (hlt : c < m) (hm : m ≤ 33395650) :
    2000 * Real.logb 10 (m / c) ≤ 2401 := by
  have htop : timesPow10Le (33395650 ^ 2000) (-2401) (2107123 ^ 2000) = true := by decide +kernel
  rw [timesPow10Le_pow_iff (by norm_num) (by norm_num), ← inv_div, Real.logb_inv] at htop
  have hc' : (2107123 : ℝ) ≤ c := by exact_mod_cast hc
  have hm' : (m : ℝ) ≤ 33395650 := by exact_mod_cast hm
  have hpos : (0 : ℝ) < m / c := div_pos (by exact_mod_cast (Nat.zero_le c).trans_lt hlt) (by linarith)
  have hlog : Real.logb 10 (m / c) ≤ Real.logb 10 (33395650 / 2107123) :=
    Real.logb_le_logb_of_le (by norm_num) hpos (by gcongr)
  push_cast at htop
  linarith

/-- Above the ceiling value the reduction is the logarithm rounded up, within the range of the search. -/
theorem reductionFor_eq_ceil {c m : Nat} (hc : 1 ≤ c) (hlt : c < m) (hmax : 2000 * Real.logb 10 (m / c) ≤ 32768) :
    reductionFor c m = ⌈2000 * Real.logb 10 (m / c)⌉₊ := by
  have hneg : 2000 * Real.logb 10 (c / m) = -(2000 * Real.logb 10 (m / c)) := by
    rw [← inv_div, Real.logb_inv, mul_neg]
  have hpos := logb_ratio_pos hc hlt
  rw [reductionFor, if_neg (not_le.2 hlt), floorLog2000_eq hc (hc.trans hlt.le) (by linarith) (by linarith), hneg, Int.floor_neg,
    neg_neg, Int.ceil_toNat]

/-- Settles O22: nothing up to the ceiling value, and above it the rounded logarithm between its bounds. -/
theorem reductionRoundsUp : Obligations.ReductionRoundsUp := by
  intro c m hc _ hm
  refine ⟨fun hle => by rw [reductionFor, if_pos hle], fun hlt => ?_⟩
  have hc1 : 1 ≤ c := le_trans (by norm_num) hc
  have hpos := logb_ratio_pos hc1 hlt
  have hmax := logb_ratio_le hc hlt hm
  rw [reductionFor_eq_ceil hc1 hlt (by linarith)]
  exact ⟨Nat.one_le_ceil_iff.2 hpos, Nat.ceil_le.2 (by exact_mod_cast hmax), Nat.le_ceil _, Nat.ceil_lt_add_one hpos.le⟩

end Sys2Proof.Machine

/-! PROOFS. Ramps from their first frame to their end, and the ceiling at the output (R105, R112). -/

namespace Sys2Proof.Machine

/-! ### Ramps (R105) -/

theorem OutputStage.advanceRamp_some {o : OutputStage} {r : Ramp} (h : o.ramp = some r) :
    o.advanceRamp = { o with applied := r.factorAt (480 - (r.left - 1 : Nat)), ramp := some { r with left := r.left - 1 } } := by
  simp only [OutputStage.advanceRamp, h]

/-- Each frame of a ramp takes one off its frames left. -/
theorem OutputStage.ramp_iterate {o : OutputStage} {r : Ramp} (h : o.ramp = some r) (k : Nat) :
    (OutputStage.advanceRamp^[k] o).ramp = some { r with left := r.left - k } := by
  induction k with
  | zero => exact h
  | succ k ih => rw [Function.iterate_succ_apply', OutputStage.advanceRamp_some ih, Nat.sub_sub]

/-- The applied factor after a frame of a ramp is that of its frames run. -/
theorem OutputStage.applied_iterate_succ {o : OutputStage} {r : Ramp} (h : o.ramp = some r) (k : Nat) :
    (OutputStage.advanceRamp^[k + 1] o).applied = r.factorAt (480 - (r.left - (k + 1) : Nat)) := by
  rw [Function.iterate_succ_apply', OutputStage.advanceRamp_some (OutputStage.ramp_iterate h k), Nat.sub_sub]
  rfl

/-- The factor along a ramp never falls below zero, so that it is the linear one as it stands. -/
theorem Ramp.factorAt_eq (r : Ramp) {k : Nat} (hk : k ≤ 480) :
    (r.factorAt k : Int) = r.start + (((r.fin : Int) - r.start) * k).tdiv 480 := by
  rw [Ramp.factorAt]
  refine Int.toNat_of_nonneg ?_
  have hle : -(r.start : Int) * 480 ≤ ((r.fin : Int) - r.start) * k := by nlinarith
  have hdiv := Int.tdiv_le_tdiv (c := 480) (by norm_num) hle
  rw [Int.mul_tdiv_cancel _ (by norm_num)] at hdiv
  omega

theorem Ramp.factorAt_last (r : Ramp) : r.factorAt 480 = r.fin := by
  have h := r.factorAt_eq (k := 480) le_rfl
  rw [Nat.cast_ofNat, Int.mul_tdiv_cancel _ (by norm_num)] at h
  omega

theorem OutputStage.rampDone_iff {o : OutputStage} {r : Ramp} (h : o.ramp = some r) : o.rampDone = decide (r.left = 0) := by
  simp only [OutputStage.rampDone, h]

/-- A ramp with no frames left ends at its end factor. -/
theorem OutputStage.endRamp_of_done {o : OutputStage} {r : Ramp} (h : o.ramp = some r) (hl : r.left = 0) :
    o.endRamp = { o with applied := r.fin, ramp := none } := by
  simp [OutputStage.endRamp, OutputStage.rampDone_iff h, hl, OutputStage.completeRamp, OutputStage.setFactor, h]

theorem exec_rampEnd {s : State} (hh : s.held = false) (p : Prog) :
    exec (.rampEnd p) s = .next (s.onProg p fun P => { P with out := P.out.endRamp }) :=
  congrArg Host.Outcome.next (if_neg (by simp [hh]))

/-- Settles O15: a ramp frame by frame, its last frame, and its end. -/
theorem rampRunsAndEnds : Obligations.RampRunsAndEnds := by
  refine ⟨fun o a b k hr h1 hk => ?_, fun s p a b hh hr => ⟨_, exec_rampEnd hh p, rfl, ?_, fun q hq => ?_⟩⟩
  · have hdone := OutputStage.rampDone_iff (OutputStage.ramp_iterate hr k)
    have happlied : (OutputStage.advanceRamp^[k] o).applied = ({ start := a, fin := b, left := 480 } : Ramp).factorAt k := by
      obtain ⟨j, rfl⟩ := Nat.exists_eq_add_of_le' h1
      have hframes : (480 - (480 - (j + 1) : Nat) : Int) = (j + 1 : Nat) := by omega
      rw [OutputStage.applied_iterate_succ hr, hframes]
    refine ⟨?_, fun hlt => ?_, ?_⟩
    · rw [happlied, Ramp.factorAt_eq _ hk]
    · rw [hdone, decide_eq_false_iff_not]
      show ¬ 480 - k = 0
      omega
    · rintro rfl
      rw [happlied, Nat.cast_ofNat, Ramp.factorAt_last, hdone, decide_eq_true_iff]
      exact ⟨rfl, Nat.sub_self 480⟩
  · rw [State.prog_onProg, if_pos rfl, OutputStage.endRamp_of_done hr rfl]
  · rw [State.prog_onProg, if_neg hq]

/-! ### The ceiling at the output (R108, R112) -/

theorem ceilingValue_le (g : Int) : ceilingValue g ≤ 8388607 := by
  rw [ceilingValue]
  exact min_le_right _ _

theorem natAbs_limit_le (c : Nat) (x : Int) : (limit (-c) c x).natAbs ≤ c := by
  obtain ⟨hlo, hhi⟩ := limit_bounds (lo := -(c : Int)) (hi := c) (by omega) x
  omega

/-- The slot of a clamped sample carries a sample within the ceiling value. -/
theorem natAbs_sampleOf_limit_le {c : Nat} (hc : c ≤ 8388607) (x : Int) : (sampleOf (slotOf (limit (-c) c x))).natAbs ≤ c := by
  have hle := natAbs_limit_le c x
  rwa [sampleOf_slotOf _ (by omega) (by omega)]

/-- Whatever its pipeline holds, a programme in MEASURE or ACTIVE sends a pair within its ceiling value (R112). -/
theorem Programme.frame_within {P : Programme} (hm : P.mode ≠ .off) (x : Pair) :
    (sampleOf (slotOf (P.frame x).2.1.l)).natAbs ≤ ceilingValue P.profile.ceiling ∧
    (sampleOf (slotOf (P.frame x).2.1.r)).natAbs ≤ ceilingValue P.profile.ceiling := by
  have hc := ceilingValue_le P.profile.ceiling
  rw [Programme.frame_on hm]
  exact ⟨natAbs_sampleOf_limit_le hc _, natAbs_sampleOf_limit_le hc _⟩

theorem Programme.frame_mode (P : Programme) (x : Pair) : (P.frame x).1.mode = P.mode := by rw [P.frame_keeps x]

theorem Programme.frame_profile (P : Programme) (x : Pair) : (P.frame x).1.profile = P.profile := by
  rw [P.frame_keeps x]
  rfl

/-- Settles O13: the mode and the slot in service after the frame are those under which it was sent. -/
theorem noSampleAboveTheCeiling : Obligations.NoSampleAboveTheCeiling := by
  intro s t slots out p hh ht hexec hout hmode
  obtain rfl : (s.carryOut.takeFrame slots).followFrom s = t :=
    Host.Outcome.next.inj (((carriesOut_inputFrame slots).meets s hh ht).symm.trans hexec)
  rw [State.followFrom_tdmOut, State.tdmOut_takeFrame, Option.some.injEq] at hout
  rw [State.prog_followFrom, State.prog_takeFrame] at hmode ⊢
  rw [Programme.frame_mode] at hmode
  obtain ⟨hl, hr⟩ := outputSlots_pair (fun q => ((s.carryOut.prog q).frame (inputPair slots q)).2.1) p
  rw [Programme.frame_profile, ← hout, hl, hr]
  exact Programme.frame_within hmode _

end Sys2Proof.Machine

/-! PROOFS. READ_PROGRAMME: what a station reads back from the forty bytes of a programme's record (R115, R172, R182, section 10.9). -/

namespace Sys2Proof.Machine

theorem toNat_ofNat32 {n : Nat} (h : n < 2 ^ 32) : (BitVec.ofNat 32 n).toNat = n := by
  rw [BitVec.toNat_ofNat, Nat.mod_eq_of_lt h]

theorem Mode.code_le (m : Mode) : m.code ≤ 2 := by cases m <;> decide

theorem Deviation.code_le (d : Deviation) : d.code ≤ 2 := by cases d <;> decide

/-- A reduction is rounded up to whole units of 0.01 dB (R115). -/
theorem wholeReduction_spec (d : Nat) : 48 * wholeReduction d ≤ d + 47 ∧ d ≤ 48 * wholeReduction d := by
  unfold wholeReduction
  omega

/-! ### The parts of the record -/

/-- The first five bytes of the record. -/
def State.statusHead (s : State) (p : Prog) : List Byte :=
  [count8 (s.prog p).mode.code, (s.prog p).statusBits, count8 (s.prog p).cuePause, stationByte (s.holder (progRecord p)),
   (s.head p).elim 0xFF fun q => count8 q.val]

/-- The signed words from byte 5 on. -/
def Programme.statusWords (P : Programme) : List Int :=
  [P.gcur, P.gd.getD 0, P.trim, P.readingM.getD 0, P.readingS.getD 0, P.readingI.getD 0]

/-- The flags of byte 1, from bit 0 on. -/
def Programme.statusFlags (P : Programme) : List Bool :=
  [P.inService = 1, P.requestPause, P.settled, P.gd.isSome, P.readingM.isSome, P.readingS.isSome, P.readingI.isSome]

/-- The counts from byte 29 on. -/
def Programme.statusTail (P : Programme) : List Byte :=
  [count8 P.queue.length] ++ (count16 P.lost ++ ([count8 P.deviation.code, count8 P.faultCount] ++
    [wholeReduction P.out.reduction, wholeReduction P.out.peak, P.out.clips].flatMap count16))

section Status
variable {s : State} {p : Prog}

theorem State.programmeStatus_eq : s.programmeStatus p =
    s.statusHead p ++ ((s.prog p).statusWords.flatMap signed16 ++
      (count32 (s.prog p).histogram.n1 ++ (count32 (s.prog p).histogram.below ++
        (bytes32 (s.prog p).front.counter ++ (s.prog p).statusTail)))) := by
  simp only [State.programmeStatus, State.statusHead, Programme.statusWords, Programme.statusTail, List.flatMap_cons,
    List.flatMap_nil, List.append_assoc, List.append_nil]
  cases s.head p <;> rfl

theorem State.programmeStatus_length : (s.programmeStatus p).length = 40 := by
  rw [State.programmeStatus_eq]
  rfl

theorem State.programmeStatus_drop_head : (s.programmeStatus p).drop 5 = (s.prog p).statusWords.flatMap signed16 ++
    (count32 (s.prog p).histogram.n1 ++ (count32 (s.prog p).histogram.below ++
      (bytes32 (s.prog p).front.counter ++ (s.prog p).statusTail))) := by
  rw [State.programmeStatus_eq]
  rfl

theorem State.programmeStatus_drop_words : (s.programmeStatus p).drop 17 =
    count32 (s.prog p).histogram.n1 ++ (count32 (s.prog p).histogram.below ++
      (bytes32 (s.prog p).front.counter ++ (s.prog p).statusTail)) := by
  rw [show 17 = 5 + 12 from rfl, ← List.drop_drop, State.programmeStatus_drop_head]
  rfl

theorem State.programmeStatus_drop_counter : (s.programmeStatus p).drop 29 = (s.prog p).statusTail := by
  rw [show 29 = 17 + 12 from rfl, ← List.drop_drop, State.programmeStatus_drop_words]
  rfl

/-! ### What stands at its place -/

theorem State.programmeStatus_head {i : Nat} (hi : i < 5) :
    byteAt (s.programmeStatus p) i = byteAt (s.statusHead p) i := by
  rw [State.programmeStatus_eq]
  exact List.getD_append _ _ _ _ hi

theorem State.programmeStatus_flag {k : Nat} (hk : k < 8) :
    (byteAt (s.programmeStatus p) 1).getLsbD k = (s.prog p).statusFlags.getD k false := by
  rw [State.programmeStatus_head (by norm_num)]
  exact count8_packBits_getLsbD _ hk

theorem State.programmeStatus_word {k : Nat} {v : Int} (hv : (s.prog p).statusWords[k]? = some v) :
    word16At (s.programmeStatus p) (5 + 2 * k) = BitVec.ofInt 16 v := by
  have hk : k < 6 := (List.getElem?_eq_some_iff.1 hv).1
  rw [word16At_add, State.programmeStatus_drop_head, ← Nat.add_zero (2 * k), word16At_add,
    List.drop_append_of_le_length (by rw [length_flatMap_size (n := 2) (fun _ => rfl)]; exact Nat.mul_le_mul_left 2 hk.le),
    drop_flatMap_entry (f := signed16) (n := 2) (fun _ => rfl) hv, List.append_assoc]
  exact word16At_bytes16 _ _

/-- A signed word in its range is read back from its place. -/
theorem State.programmeStatus_signed {k : Nat} {v : Int} (hv : (s.prog p).statusWords[k]? = some v) (hlo : -32768 ≤ v)
    (hhi : v ≤ 32767) : (word16At (s.programmeStatus p) (5 + 2 * k)).toInt = v := by
  rw [State.programmeStatus_word hv, toInt_ofInt16 hlo hhi]

/-- A value that may be absent: word `k` and flag `b` tell both cases apart. -/
theorem State.programmeStatus_optional {k b : Nat} {o : Option Int} (hv : (s.prog p).statusWords[k]? = some (o.getD 0))
    (hb : b < 8) (hf : (s.prog p).statusFlags.getD b false = o.isSome) :
    (∀ g, o = some g → -32768 ≤ g → g ≤ 32767 →
      (word16At (s.programmeStatus p) (5 + 2 * k)).toInt = g ∧ (byteAt (s.programmeStatus p) 1).getLsbD b = true) ∧
    (o = none → word16At (s.programmeStatus p) (5 + 2 * k) = 0 ∧ (byteAt (s.programmeStatus p) 1).getLsbD b = false) := by
  rw [State.programmeStatus_flag hb, hf]
  constructor
  · rintro g rfl hlo hhi
    exact ⟨State.programmeStatus_signed hv hlo hhi, rfl⟩
  · rintro rfl
    exact ⟨State.programmeStatus_word hv, rfl⟩

theorem State.programmeStatus_count32 :
    word32At (s.programmeStatus p) 17 = BitVec.ofNat 32 (s.prog p).histogram.n1 ∧
    word32At (s.programmeStatus p) 21 = BitVec.ofNat 32 (s.prog p).histogram.below ∧
    word32At (s.programmeStatus p) 25 = (s.prog p).front.counter := by
  have hat : ∀ k, word32At (s.programmeStatus p) (17 + k) = word32At (count32 (s.prog p).histogram.n1 ++
      (count32 (s.prog p).histogram.below ++ (bytes32 (s.prog p).front.counter ++ (s.prog p).statusTail))) k := fun k => by
    rw [word32At_add, State.programmeStatus_drop_words]
  exact ⟨(hat 0).trans (word32_bytes _), (hat 4).trans (word32_bytes _), (hat 8).trans (word32_bytes _)⟩

theorem State.programmeStatus_tail (i : Nat) : byteAt (s.programmeStatus p) (29 + i) = byteAt (s.prog p).statusTail i := by
  rw [byteAt_add, State.programmeStatus_drop_counter]

theorem State.programmeStatus_count16 :
    word16At (s.programmeStatus p) 30 = BitVec.ofNat 16 (s.prog p).lost ∧
    word16At (s.programmeStatus p) 34 = BitVec.ofNat 16 (wholeReduction (s.prog p).out.reduction) ∧
    word16At (s.programmeStatus p) 36 = BitVec.ofNat 16 (wholeReduction (s.prog p).out.peak) ∧
    word16At (s.programmeStatus p) 38 = BitVec.ofNat 16 (s.prog p).out.clips := by
  have hat : ∀ k, word16At (s.programmeStatus p) (29 + k) = word16At (s.prog p).statusTail k := fun k => by
    rw [word16At_add, State.programmeStatus_drop_counter]
  exact ⟨(hat 1).trans (word16_bytes _), (hat 5).trans (word16_bytes _), (hat 7).trans (word16_bytes _),
    (hat 9).trans (word16_bytes _)⟩

/-- A reduction of up to 655.35 dB is read back rounded up. -/
theorem wholeReduction_reads {w : BitVec 16} {d : Nat} (hw : w = BitVec.ofNat 16 (wholeReduction d)) (hd : d ≤ 48 * 65535) :
    48 * w.toNat ≤ d + 47 ∧ d ≤ 48 * w.toNat := by
  have hspec := wholeReduction_spec d
  rw [hw, toNat_ofNat16 (by omega)]
  exact hspec

end Status

theorem serveReadProgramme_report {port : Port} {target : Byte} {s : State} {p : Prog} (h : target.toNat = p.val) :
    serveReadProgramme port target [] s = report s (s.programmeStatus p) := by
  rw [serveReadProgramme, needSize_eq (n := 0) rfl, needBelow_eq h]

/-- Settles O33: the read reports the record, and each field stands at its place. -/
theorem readProgrammeReports : Obligations.ReadProgrammeReports := by
  intro s port target p hready htarget P
  have hserves : Serves serveReadProgramme 0x01 .readProgramme := fun _ _ _ _ => rfl
  obtain ⟨t, hexec, hr, -⟩ := hserves.reads hready (by simp) (serveReadProgramme_report htarget)
  rw [State.programmeStatus_hear] at hr
  obtain ⟨hn1, hbelow, hcounter⟩ := State.programmeStatus_count32 (s := s) (p := p)
  obtain ⟨hlost, hreduction, hpeak, hclips⟩ := State.programmeStatus_count16 (s := s) (p := p)
  have hhead := fun {i : Nat} => State.programmeStatus_head (s := s) (p := p) (i := i)
  have htail := State.programmeStatus_tail (s := s) (p := p)
  have hflag := fun {k : Nat} => State.programmeStatus_flag (s := s) (p := p) (k := k)
  refine ⟨t, s.programmeStatus p, hexec, hr, State.programmeStatus_length, ?mode, hhead (by norm_num), ?member, ?nobody, ?signed,
    ?optional, hflag (by norm_num), hflag (by norm_num), hflag (by norm_num), hflag (by norm_num), ?counts32, hcounter, ?counts8,
    ?deviation, ?counts16, ?reductions⟩
  case mode =>
    rw [hhead (by norm_num)]
    exact toNat_count8 (P.mode.code_le.trans (by norm_num))
  case member =>
    intro q hq
    rw [hhead (by norm_num), State.statusHead, hq]
    exact count8_fin (by norm_num) q
  case nobody =>
    intro hnone
    rw [hhead (by norm_num), State.statusHead, hnone]
    rfl
  case deviation =>
    rw [htail 3]
    exact toNat_count8 (P.deviation.code_le.trans (by norm_num))
  all_goals simp only [List.forall_mem_cons, List.not_mem_nil, false_imp_iff, implies_true, and_true]
  case signed => exact ⟨State.programmeStatus_signed (k := 0) rfl, State.programmeStatus_signed (k := 2) rfl⟩
  case optional =>
    exact ⟨State.programmeStatus_optional (k := 1) rfl (by norm_num) rfl,
      State.programmeStatus_optional (k := 3) rfl (by norm_num) rfl,
      State.programmeStatus_optional (k := 4) rfl (by norm_num) rfl,
      State.programmeStatus_optional (k := 5) rfl (by norm_num) rfl⟩
  case counts32 => exact ⟨fun h => hn1 ▸ toNat_ofNat32 h, fun h => hbelow ▸ toNat_ofNat32 h⟩
  case counts8 =>
    rw [hhead (by norm_num), htail 0, htail 4]
    exact ⟨fun h => toNat_count8 h, fun h => toNat_count8 h, fun h => toNat_count8 h⟩
  case counts16 => exact ⟨fun h => hlost ▸ toNat_ofNat16 h, fun h => hclips ▸ toNat_ofNat16 h⟩
  case reductions => exact ⟨wholeReduction_reads hreduction, wholeReduction_reads hpeak⟩

end Sys2Proof.Machine

/-! PROOFS. SET_TRIM and SET_SCHEDULE, and the two requests that write slots where the slot is in service on an ACTIVE programme (R124,
R132, R134, R172). -/

namespace Sys2Proof.Machine

/-! ### SET_TRIM and SET_SCHEDULE (R132, R134) -/

/-- What a request of the form that needs the claim on the programme of its TARGET leaves, where it rewrites that programme and is
answered CLAMPED if `b`. -/
theorem State.exec_onProg_clamped {s : State} {port : Port} {p : Prog} {code target : Byte} {c : RequestCommand} {serve : Serve}
    (hc : Serves serve code c) (h : s.ReadyHolder port (progRecord p)) {d : List Byte} (hd : d.length ≤ 48)
    (f : Programme → Programme) {b : Bool}
    (hs : serve port target d (s.hear port) = doneClamped ((s.hear port).onProg p f) b []) :
    ∃ t, exec (c port target d) s = .next t ∧ s.Answers t port code target (if b then .clamped else .ok) [] 0 ∧
      t = { s with ports := t.ports, notices := t.notices, progs := t.progs } ∧ (∀ q, q ≠ p → t.prog q = s.prog q) ∧
      t.prog p = f (s.prog p) := by
  obtain ⟨t, ht, hrest⟩ := State.takeMessage_onProg code target f h.1.1 hd hs
  exact ⟨t, ht ▸ hc port target d s, hrest⟩

theorem limit_bne {lo hi : Int} (h : lo ≤ hi) (v : Int) : (limit lo hi v != v) = !decide (lo ≤ v ∧ v ≤ hi) := by
  rw [Bool.eq_iff_iff]
  simp only [limit, bne_iff_ne, Bool.not_eq_true', decide_eq_false_iff_not]
  omega

/-- The increment that is stored, and whether it was clamped (R134). -/
theorem increment_clamped (v : Count32) :
    (if maxIncrement < v then maxIncrement else v).toNat = min v.toNat (2 ^ 31) ∧
    ((if maxIncrement < v then maxIncrement else v) != v) = !decide (v.toNat ≤ 2 ^ 31) := by
  have hmax : maxIncrement.toNat = 2 ^ 31 := rfl
  by_cases h : maxIncrement < v
  · have hlt : 2 ^ 31 < v.toNat := BitVec.lt_def.1 h
    have hne : maxIncrement ≠ v := fun e => absurd hlt (by rw [← e, hmax]; exact lt_irrefl _)
    simp only [if_pos h, hmax, Nat.min_eq_right hlt.le, bne_iff_ne.2 hne, decide_eq_false (Nat.not_le.2 hlt), Bool.not_false, and_self]
  · have hle : v.toNat ≤ 2 ^ 31 := Nat.le_of_not_lt fun hlt => h (BitVec.lt_def.2 hlt)
    simp only [if_neg h, bne_self_eq_false, Nat.min_eq_left hle, decide_eq_true hle, Bool.not_true, and_self]

/-- The payload of SET_SCHEDULE (R134). -/
def scheduleBytes (a b v : Count32) (e : Bool) : List Byte := bytes32 a ++ bytes32 b ++ bytes32 v ++ [if e then 1 else 0]

theorem serveSetSchedule_ready {s : State} {port : Port} {target : Byte} {p : Prog} (a b v : Count32) (e : Bool)
    (h : s.ReadyHolder port (progRecord p)) (ht : target.toNat = p.val) :
    serveSetSchedule port target (scheduleBytes a b v e) (s.hear port) =
      doneClamped ((s.hear port).onProg p fun P => { P with schedule :=
        { compareA := a, compareB := b, increment := if maxIncrement < v then maxIncrement else v, enabled := e } })
        ((if maxIncrement < v then maxIncrement else v) != v) [] := by
  have ha : word32At (scheduleBytes a b v e) 0 = a := word32_bytes a
  have hb : word32At (scheduleBytes a b v e) 4 = b := word32_bytes b
  have hv : word32At (scheduleBytes a b v e) 8 = v := word32_bytes v
  have he : boolOf (byteAt (scheduleBytes a b v e) 12) = some e := boolOf_ofBool e
  rw [serveSetSchedule, needFull_full (by rw [State.access_hear]; exact h.1.2), needSize_eq (n := 13) rfl, needBelow_eq ht,
    needValue_some he, needClaim_held (by rw [State.holder_hear]; exact h.2), ha, hb, hv]

/-- Settles O43: each request rewrites one field of its programme by the clamped value. -/
theorem trimAndScheduleAreSet : Obligations.TrimAndScheduleAreSet := by
  intro s port target p h ht P
  refine ⟨fun lo hi => ?_, fun a b v e => ?_⟩
  · intro v
    obtain ⟨t, hx, ha, hte, hq, hp⟩ := State.exec_onProg_clamped (c := .setTrim) (serve := serveSetTrim) (fun _ _ _ _ => rfl) h
      (by simp) (fun P => { P with trim := limit (-1200) 1200 v }) (b := limit (-1200) 1200 v != v)
      (programmeRequest_ready (d := [lo, hi]) h ht rfl)
    rw [limit_bne (by decide)] at ha
    exact ⟨t, hx, by simpa only [Bool.not_eq_true', decide_eq_false_iff_not, ite_not] using ha, hte, hq, hp⟩
  · obtain ⟨t, hx, ha, hte, hq, hp⟩ := State.exec_onProg_clamped (c := .setSchedule) (fun _ _ _ _ => rfl) h
      (by simp [scheduleBytes, bytes32]) _ (serveSetSchedule_ready a b v e h ht)
    obtain ⟨hinc, hclamped⟩ := increment_clamped v
    rw [hclamped] at ha
    exact ⟨t, hx, by simpa only [Bool.not_eq_true', decide_eq_false_iff_not, ite_not] using ha, hte, hq, _, hinc, hp⟩

/-! ### The stages of the two requests that write slots (R124, R125, R129) -/

section Slots
variable {s : State} {port : Port} {target : Byte} {p : Prog}

/-- A well-formed WRITE_PROFILE from the holder reaches the check of the slot. -/
theorem serveWriteProfile_ready {i : Slot} {rest : List Byte} {items : List ProfileItem} (h : s.ReadyHolder port (progRecord p))
    (ht : target.toNat = p.val) (hitems : profileItems rest = some items) :
    serveWriteProfile port target (count8 i.val :: rest) (s.hear port) = needIdleSlot p i (s.hear port)
      (doneClamped ((s.hear port).storeSlot p i ((s.prog p).slots[i].write items).profile)
        (((s.prog p).slots[i].write items).clamped != 0) (bytes16 ((s.prog p).slots[i].write items).clamped)) := by
  rw [serveWriteProfile, needFull_full (by rw [State.access_hear]; exact h.1.2), if_neg (by simp), needBelow_eq ht, byteAt_cons_zero,
    needBelow_eq (i := i) (count8_fin (by decide) i), List.tail_cons, needValue_some hitems,
    needClaim_held (by rw [State.holder_hear]; exact h.2)]
  rfl

/-- A COPY_PROFILE of slots and programmes in range, on a FULL port, reaches the comparison of source and destination. -/
theorem serveCopyProfile_ready (i j : Slot) (q : Prog) (h : s.ReadyFull port) (ht : target.toNat = p.val) :
    serveCopyProfile port target [count8 i.val, count8 q.val, count8 j.val] (s.hear port) =
      if p = q ∧ i = j then refuse (s.hear port) .badTarget
      else needClaim port (progRecord p) (s.hear port) <| needIdleSlot p i (s.hear port) <|
        done ((s.hear port).storeSlot p i (s.prog q).slots[j]) := by
  have hi : (byteAt [count8 i.val, count8 q.val, count8 j.val] 0).toNat = i.val := count8_fin (by decide) i
  have hq : (byteAt [count8 i.val, count8 q.val, count8 j.val] 1).toNat = q.val := count8_fin (by decide) q
  have hj : (byteAt [count8 i.val, count8 q.val, count8 j.val] 2).toNat = j.val := count8_fin (by decide) j
  rw [serveCopyProfile, needFull_full (by rw [State.access_hear]; exact h.2), needSize_eq (n := 3) rfl, needBelow_eq ht,
    needBelow_eq hi, needBelow_eq hq, needBelow_eq hj]
  rfl

/-- A COPY_PROFILE from the holder, of another slot, reaches the check of the destination. -/
theorem serveCopyProfile_other {i j : Slot} {q : Prog} (h : s.ReadyHolder port (progRecord p)) (ht : target.toNat = p.val)
    (hne : ¬ (p = q ∧ i = j)) : serveCopyProfile port target [count8 i.val, count8 q.val, count8 j.val] (s.hear port) =
      needIdleSlot p i (s.hear port) (done ((s.hear port).storeSlot p i (s.prog q).slots[j])) := by
  rw [serveCopyProfile_ready i j q h.1 ht, if_neg hne, needClaim_held (by rw [State.holder_hear]; exact h.2)]

end Slots

/-- Settles O31: both requests pass the checks before that of the slot, which refuses them. -/
theorem slotInServiceIsProtected : Obligations.SlotInServiceIsProtected := by
  intro s port target p h ht hm
  have hbusy : ((s.hear port).prog p).mode = .active ∧ ((s.hear port).prog p).inService = (s.prog p).inService := ⟨hm, rfl⟩
  refine ⟨fun rest hlen hsome => ?_, fun q j hne => ?_⟩
  · obtain ⟨items, hitems⟩ := Option.isSome_iff_exists.1 hsome
    refine Serves.refuses (c := .writeProfile) (serve := serveWriteProfile) (fun _ _ _ _ => rfl) h.1.1 (Nat.succ_le_succ hlen) ?_
    rw [serveWriteProfile_ready h ht hitems, needIdleSlot_busy hbusy]
  · refine Serves.refuses (c := .copyProfile) (serve := serveCopyProfile) (fun _ _ _ _ => rfl) h.1.1 (by simp) ?_
    rw [serveCopyProfile_other h ht fun e => hne (Prod.ext e.1.symm e.2.symm), needIdleSlot_busy hbusy]

end Sys2Proof.Machine

/-! PROOFS. Slots written: what the contents of a slot stored in a programme leave of it, and COPY_PROFILE (R95, R127, R129). -/

namespace Sys2Proof.Machine

/-! ### A slot stored (R95, R127) -/

theorem State.clampGain_within (s o : State) (p : Prog) : (s.within o).clampGain p = (s.clampGain p).within o := by
  simp only [State.clampGain, State.prog_within]
  cases (s.prog p).mode <;> rfl

/-- The bounds in force change with new contents `f` of slot `i` (R95). -/
def Programme.Rebounds (P : Programme) (i : Slot) (f : Profile) : Prop :=
  P.inService = i ∧ (P.slots[i].gainMin ≠ f.gainMin ∨ P.slots[i].gainMax ≠ f.gainMax)

/-- The programme with the contents `f` in slot `i`, before any clamp. -/
def Programme.withSlot (i : Slot) (f : Profile) (P : Programme) : Programme := { P with slots := P.slots.set i.val f }

section Store
variable {s : State} {p : Prog} {i : Slot} {f : Profile}

theorem State.storeSlot_bounds (h : (s.prog p).Rebounds i f) :
    s.storeSlot p i f = (s.onProg p (Programme.withSlot i f)).clampGain p := if_pos h

theorem State.storeSlot_plain (h : ¬ (s.prog p).Rebounds i f) : s.storeSlot p i f = s.onProg p (Programme.withSlot i f) := if_neg h

/-- New contents of a slot are a matter of the audio side, and fire nothing. -/
theorem State.fires_storeSlot (s : State) (p : Prog) (i : Slot) (f : Profile) : s.Fires (State.storeSlot · p i f) 0 := .quiet fun o => by
  by_cases h : (s.prog p).Rebounds i f
  · rw [State.storeSlot_bounds h, State.storeSlot_bounds (s := s.within o) h, ← State.clampGain_within]
    rfl
  · rw [State.storeSlot_plain h, State.storeSlot_plain (s := s.within o) h]
    rfl

theorem State.storeSlot_frame (s : State) (p : Prog) (i : Slot) (f : Profile) :
    s.storeSlot p i f = { s with progs := (s.storeSlot p i f).progs } := by
  by_cases h : (s.prog p).Rebounds i f
  · rw [State.storeSlot_bounds h, State.clampGain_frame]
    rfl
  · rw [State.storeSlot_plain h]
    rfl

/-- What is left of programme `P` by the contents `f` of its slot `i`, where that slot is not protected (R127): only a gain held in OFF
can move. -/
def Programme.stored (i : Slot) (f : Profile) (P : Programme) : Programme := { P.withSlot i f with
  gcur := if P.inService = i ∧ P.mode = .off then limit f.gainMin f.gainMax P.gcur else P.gcur }

theorem Programme.profile_withSlot {P : Programme} (h : P.inService = i) : (P.withSlot i f).profile = f := by
  subst h
  simp [Programme.profile, Programme.withSlot]

theorem Programme.moveGain_off {P : Programme} (h : P.mode = .off) (g : Int) : P.moveGain g = { P with gcur := g } := by
  rw [P.moveGain_frame g, P.moveGain_gcur g, P.moveGain_out g, if_pos (.inr h)]

theorem Programme.stored_off {P : Programme} (hs : P.inService = i) (hm : P.mode = .off) :
    P.stored i f = { P.withSlot i f with gcur := limit f.gainMin f.gainMax P.gcur } := by rw [Programme.stored, if_pos ⟨hs, hm⟩]

theorem Programme.stored_still {P : Programme} (h : ¬ (P.inService = i ∧ P.mode = .off)) : P.stored i f = P.withSlot i f := by
  rw [Programme.stored, if_neg h]
  rfl

/-- Bounds that do not change hold the gain already. -/
theorem Programme.stored_plain {P : Programme} (hg : P.GainSound) (h : ¬ P.Rebounds i f) : P.stored i f = P.withSlot i f := by
  by_cases hs : P.inService = i ∧ P.mode = .off
  · obtain ⟨rfl, hm⟩ := hs
    obtain ⟨lo, hi⟩ := hg.bounds
    have hlo : P.profile.gainMin = f.gainMin := not_not.1 fun e => h ⟨rfl, .inl e⟩
    have hhi : P.profile.gainMax = f.gainMax := not_not.1 fun e => h ⟨rfl, .inr e⟩
    rw [Programme.stored_off rfl hm, limit_eq (hlo ▸ lo) (hhi ▸ hi)]
    rfl
  · exact Programme.stored_still hs

/-- A slot that is not protected is stored in its programme alone. -/
theorem State.storeSlot_onProg (hg : s.GainsSound) (hn : ¬ ((s.prog p).mode = .active ∧ (s.prog p).inService = i)) :
    ∃ g, s.storeSlot p i f = s.onProg p g ∧ g (s.prog p) = (s.prog p).stored i f := by
  by_cases h : (s.prog p).Rebounds i f
  · have hs : (s.prog p).inService = i := h.1
    have hself : (s.onProg p (Programme.withSlot i f)).prog p = (s.prog p).withSlot i f := by rw [State.prog_onProg, if_pos rfl]
    obtain ⟨-, measure, off⟩ := (s.onProg p (Programme.withSlot i f)).clampGain_eq p
    rw [hself] at measure off
    rw [Programme.profile_withSlot hs, State.onProg_onProg] at off
    rw [State.storeSlot_bounds h]
    cases hm : (s.prog p).mode with
    | active => exact absurd ⟨hm, hs⟩ hn
    | measure => exact ⟨_, measure hm, (Programme.stored_still (by simp [hm])).symm⟩
    | off => exact ⟨_, off hm, (Programme.moveGain_off (P := (s.prog p).withSlot i f) hm _).trans (Programme.stored_off hs hm).symm⟩
  · exact ⟨_, State.storeSlot_plain h, (Programme.stored_plain (hg.prog p) h).symm⟩

theorem State.prog_storeSlot (hg : s.GainsSound) (hn : ¬ ((s.prog p).mode = .active ∧ (s.prog p).inService = i)) (q : Prog) :
    (s.storeSlot p i f).prog q = if q = p then (s.prog p).stored i f else s.prog q := by
  obtain ⟨g, hstore, hself⟩ := State.storeSlot_onProg hg hn (f := f)
  rw [hstore, State.prog_onProg, ← hself]
  split
  · rename_i e
    rw [e]
  · rfl

end Store

theorem Programme.slots_stored (i : Slot) (f : Profile) (P : Programme) (j : Slot) :
    (P.stored i f).slots[j] = if j = i then f else P.slots[j] := by
  rw [Programme.stored, Programme.withSlot, Fin.getElem_fin, Vector.getElem_set]
  simp only [Fin.ext_iff, eq_comm (a := i.val)]
  rfl

/-- What a request leaves that stores `f` in slot `i` of programme `p`, where that slot is not protected. -/
theorem State.exec_storeSlot {s : State} {port : Port} {p : Prog} {i : Slot} {f : Profile} {code target : Byte} {c : RequestCommand}
    {serve : Serve} (hc : Serves serve code c) (h : s.ReadyHolder port (progRecord p)) (hg : s.GainsSound)
    (hn : ¬ ((s.prog p).mode = .active ∧ (s.prog p).inService = i)) {d : List Byte} (hd : d.length ≤ 48) {r : Result}
    {bytes : List Byte} (hs : serve port target d (s.hear port) =
      { state := (s.hear port).storeSlot p i f, result := r, payload := bytes }) :
    ∃ t, exec (c port target d) s = .next t ∧ s.Answers t port code target r bytes 0 ∧
      t = { s with ports := t.ports, notices := t.notices, progs := t.progs } ∧ (∀ q, q ≠ p → t.prog q = s.prog q) ∧
      t.prog p = (s.prog p).stored i f := by
  obtain ⟨t, ht, ha, hte⟩ := State.takeMessage_fires code target h.1.1 hd hs (s.fires_storeSlot p i f)
  have hprog : ∀ q, t.prog q = if q = p then (s.prog p).stored i f else s.prog q := fun q => by
    rw [← State.prog_storeSlot hg hn, hte]
    rfl
  refine ⟨t, (hc port target d s).trans (congrArg Host.Outcome.next ht), ha, ?_, fun q hq => (hprog q).trans (if_neg hq),
    (hprog p).trans (if_pos rfl)⟩
  rw [hte, s.storeSlot_frame p i f]

/-- Settles O41: the same slot twice, and the source's contents stored. -/
theorem copyProfileCopies : Obligations.CopyProfileCopies := by
  intro s port target p q i j h ht P bytes
  have hc : Serves serveCopyProfile 0x22 .copyProfile := fun _ _ _ _ => rfl
  refine ⟨fun he => ?_, fun hne hn hg => ?_⟩
  · refine hc.refuses h.1.1 (by simp [bytes]) ?_
    rw [serveCopyProfile_ready i j q h.1 ht, if_pos (Prod.mk.inj he)]
  · have hserve := (serveCopyProfile_other h ht fun e => hne (Prod.ext e.1 e.2)).trans (needIdleSlot_idle (s := s.hear port) hn _)
    obtain ⟨t, hx, ha, hte, hq, hp⟩ := State.exec_storeSlot hc h hg hn (by simp) hserve
    have hslots : ∀ k : Slot, (t.prog p).slots[k] = if k = i then (s.prog q).slots[j] else P.slots[k] := fun k => by
      rw [hp, Programme.slots_stored]
    refine ⟨t, hx, ha, hte, hq, (hslots i).trans (if_pos rfl), fun k hk => (hslots k).trans (if_neg hk), ?_⟩
    rw [hp]
    rfl

end Sys2Proof.Machine

/-! PROOFS. WRITE_PROFILE field by field: the value that each field takes at its turn, and the set of the fields counted as clamped
(R125, R126). -/

namespace Sys2Proof.Machine

theorem Field.id_injective {f g : Field} (h : f.id = g.id) : f = g := by
  have hitem := ProfileItem.ofValue_number f 0
  rw [h, ProfileItem.ofValue_number] at hitem
  cases hitem
  rfl

namespace Writing

/-! ### One turn (R126) -/

/-- What a write has made so far of the numeric field `x`: its value, and whether it is counted as clamped. -/
def entry (w : Writing) (x : Field) : Int × Bool := (w.profile.get x, w.clamped.getLsbD x.id)

/-- What the turn of the numeric field `x` makes of it, with `lo` for the lower end of its range (R126). -/
def turn (items : List ProfileItem) (x : Field) (lo : Int) (e : Int × Bool) : Int × Bool :=
  match numberIn items x with
  | none => e
  | some v => (limit lo (highestOf x) v, e.2 || decide (limit lo (highestOf x) v ≠ v))

theorem getLsbD_count (w : Writing) (n : Nat) (b : Bool) {k : Nat} (hk : k < 16) :
    (w.count n b).clamped.getLsbD k = (w.clamped.getLsbD k || b && decide (k = n)) := by
  cases b with
  | false => simp [Writing.count]
  | true => simp [Writing.count, hk, eq_comm (a := k)]

section Turns
variable (items : List ProfileItem) (w : Writing)

theorem number_none {x : Field} (h : numberIn items x = none) : w.number items x = w := by simp only [Writing.number, h]

theorem number_some {x : Field} {v : Int} (h : numberIn items x = some v) : w.number items x =
    { w with profile := w.profile.put x (limit (w.profile.lowest x) (highestOf x) v) : Writing }.count x.id
      (limit (w.profile.lowest x) (highestOf x) v != v) := by simp only [Writing.number, h]

/-- The turn of a field, and the fields whose turn it is not. -/
theorem entry_number (x y : Field) :
    (w.number items x).entry y = if y = x then turn items x (w.profile.lowest x) (w.entry x) else w.entry y := by
  cases h : numberIn items x with
  | none =>
    rw [number_none _ _ h, turn, h]
    split
    · rename_i e
      rw [e]
    · rfl
  | some v =>
    rw [number_some _ _ h, turn, h, entry, entry, count_profile, Profile.get_put,
      getLsbD_count _ _ _ (y.id_le.trans_lt (by decide))]
    by_cases e : y = x
    · simp [e, bne, beq_eq_decide]
    · have hid : y.id ≠ x.id := fun hi => e (Field.id_injective hi)
      simp [e, hid, entry]

@[simp] theorem steering_number (x : Field) : (w.number items x).profile.steering = w.profile.steering := by
  rcases w.number_profile items x with e | ⟨v, e⟩ <;> rw [e]
  cases x <;> rfl

@[simp] theorem label_number (x : Field) : (w.number items x).profile.label = w.profile.label := by
  rcases w.number_profile items x with e | ⟨v, e⟩ <;> rw [e]
  exact Profile.label_put ..

/-- A number that is no numeric field's is never counted. -/
theorem getLsbD_number {k : Nat} (hk : k < 16) {x : Field} (hx : k ≠ x.id) :
    (w.number items x).clamped.getLsbD k = w.clamped.getLsbD k := by
  cases h : numberIn items x with
  | none => rw [number_none _ _ h]
  | some v => rw [number_some _ _ h, getLsbD_count _ _ _ hk, decide_eq_false hx, Bool.and_false, Bool.or_false]

/-- The turn of the steering (R121, R184). -/
theorem steering_steering : (w.steering items).profile.steering =
    (steeringIn items).elim w.profile.steering fun v => if v = 1 then .integrated else .short := by
  unfold Writing.steering
  cases steeringIn items <;> rfl

/-- The turn of the label (R122). -/
theorem label_label : (w.label items).profile.label =
    (labelIn items).elim w.profile.label fun chars => if chars = [] then none else some chars := by
  unfold Writing.label
  cases labelIn items <;> rfl

@[simp] theorem entry_steering (y : Field) : (w.steering items).entry y = w.entry y := by
  unfold Writing.steering
  split
  · rfl
  · cases y <;> rfl

@[simp] theorem entry_label (y : Field) : (w.label items).entry y = w.entry y := by
  unfold Writing.label
  split
  · rfl
  · cases y <;> rfl

@[simp] theorem clamped_steering : (w.steering items).clamped = w.clamped := by
  unfold Writing.steering
  split <;> rfl

@[simp] theorem clamped_label : (w.label items).clamped = w.clamped := by
  unfold Writing.label
  split <;> rfl

@[simp] theorem label_steering : (w.steering items).profile.label = w.profile.label := by
  unfold Writing.steering
  split <;> rfl

@[simp] theorem steering_label : (w.label items).profile.steering = w.profile.steering := by
  unfold Writing.label
  split <;> rfl

/-- After warn_dev a fault_dev below it is raised to it and counted (R126). -/
theorem raiseFault_eq : w.raiseFault =
    { w with profile := w.profile.put .faultDev (max w.profile.warnDev w.profile.faultDev) : Writing }.count Field.faultDev.id
      (decide (w.profile.faultDev < w.profile.warnDev)) := by
  unfold Writing.raiseFault
  split
  · rename_i h
    rw [max_eq_left h.le, decide_eq_true h]
    rfl
  · rename_i h
    rw [max_eq_right (not_lt.1 h), decide_eq_false h]
    rfl

theorem entry_raiseFault (y : Field) : w.raiseFault.entry y = if y = .faultDev then
    (max w.profile.warnDev w.profile.faultDev, (w.entry .faultDev).2 || decide (w.profile.faultDev < w.profile.warnDev))
    else w.entry y := by
  rw [raiseFault_eq, entry, count_profile, Profile.get_put, getLsbD_count _ _ _ (y.id_le.trans_lt (by decide))]
  by_cases e : y = .faultDev
  · simp [e, entry]
  · have hid : y.id ≠ Field.faultDev.id := fun hi => e (Field.id_injective hi)
    simp only [e, hid, if_false, decide_false, Bool.and_false, Bool.or_false, entry]

@[simp] theorem steering_raiseFault : w.raiseFault.profile.steering = w.profile.steering := by
  rw [raiseFault_eq, count_profile]
  rfl

@[simp] theorem label_raiseFault : w.raiseFault.profile.label = w.profile.label := by
  rw [raiseFault_eq, count_profile]
  rfl

theorem getLsbD_raiseFault {k : Nat} (hk : k < 16) (hx : k ≠ Field.faultDev.id) :
    w.raiseFault.clamped.getLsbD k = w.clamped.getLsbD k := by
  rw [raiseFault_eq, getLsbD_count _ _ _ hk, decide_eq_false hx, Bool.and_false, Bool.or_false]

/-! ### Turns one after the other -/

/-- What every turn of a list of fields keeps, the list keeps. -/
theorem numbers_keep {α : Type} (φ : Writing → α) {l : List Field} (h : ∀ w, ∀ x ∈ l, φ (Writing.number items w x) = φ w) :
    φ (l.foldl (Writing.number items) w) = φ w := by
  induction l generalizing w with
  | nil => rfl
  | cons x xs ih =>
    obtain ⟨hx, hxs⟩ := (forall_congr' fun w => List.forall_mem_cons).1 h |> forall_and.1
    exact (ih _ hxs).trans (hx w)

theorem entry_numbers_of_not_mem {l : List Field} {y : Field} (hy : y ∉ l) :
    (l.foldl (Writing.number items) w).entry y = w.entry y :=
  numbers_keep items w (entry · y) fun w x hx => by
    rw [entry_number, if_neg fun e : y = x => hy (e ▸ hx)]

/-- A field but fault_dev takes its one turn, whose range never moves. -/
theorem entry_numbers_of_mem {l : List Field} (hl : l.Nodup) {y : Field} (hy : y ∈ l) (hf : y ≠ .faultDev) :
    (l.foldl (Writing.number items) w).entry y = turn items y (w.profile.lowest y) (w.entry y) := by
  induction l generalizing w with
  | nil => cases hy
  | cons x xs ih =>
    obtain ⟨hx, hxs⟩ := List.nodup_cons.1 hl
    rw [List.foldl_cons]
    by_cases e : y = x
    · subst e
      rw [entry_numbers_of_not_mem _ _ hx, entry_number, if_pos rfl]
    · rw [ih _ hxs ((List.mem_cons.1 hy).resolve_left e), entry_number, if_neg e, Profile.lowest_of_ne hf]

end Turns

end Writing

/-! ### The whole write -/

theorem Writing.warnDev_raiseFault (w : Writing) : w.raiseFault.profile.warnDev = w.profile.warnDev :=
  congrArg Prod.fst (w.entry_raiseFault .warnDev)

theorem Writing.warnDev_number_faultDev (items : List ProfileItem) (w : Writing) :
    (w.number items .faultDev).profile.warnDev = w.profile.warnDev := congrArg Prod.fst (w.entry_number items .faultDev .warnDev)

/-- The fields that take their turn before the steering and warn_dev, in the order of R121. -/
def fieldsBeforeWarn : List Field := [.target, .ceiling, .gainMin, .gainMax, .upRate, .downRate, .deadband, .holdThreshold]

/-- The fields that take their turn after fault_dev, in the order of R121. -/
def fieldsAfterFault : List Field := [.faultVisits, .settleTol, .settleCount, .release]

theorem fields_cases (x : Field) : x ∈ fieldsBeforeWarn ∨ x = .warnDev ∨ x = .faultDev ∨ x ∈ fieldsAfterFault := by
  cases x <;> decide

theorem not_mem_fieldsBeforeWarn_of_late : ∀ x ∈ fieldsAfterFault, x ∉ fieldsBeforeWarn ∧ x ≠ .warnDev := by decide

section Write
variable (f : Profile) (items : List ProfileItem)

/-- The slot before warn_dev takes its turn. -/
def Profile.writtenBeforeWarn : Writing := (fieldsBeforeWarn.foldl (Writing.number items) { profile := f, clamped := 0 }).steering items

/-- The slot before fault_dev takes its turn. -/
def Profile.writtenBeforeFault : Writing := ((f.writtenBeforeWarn items).number items .warnDev).raiseFault

theorem Profile.write_eq : f.write items =
    (fieldsAfterFault.foldl (Writing.number items) ((f.writtenBeforeFault items).number items .faultDev)).label items := rfl

/-- Nothing but the fields of its list has taken a turn before warn_dev. -/
theorem Profile.entry_writtenBeforeWarn {x : Field} (hx : x ∉ fieldsBeforeWarn) :
    (f.writtenBeforeWarn items).entry x = (f.get x, false) := by
  rw [Profile.writtenBeforeWarn, Writing.entry_steering, Writing.entry_numbers_of_not_mem _ _ hx]
  simp [Writing.entry]

theorem Profile.entry_write_of_not_late {x : Field} (hx : x ∉ fieldsAfterFault) :
    (f.write items).entry x = ((f.writtenBeforeFault items).number items .faultDev).entry x := by
  rw [Profile.write_eq, Writing.entry_label, Writing.entry_numbers_of_not_mem _ _ hx]

/-- Every field but fault_dev takes its turn from its old value, within its one range. -/
theorem Profile.entry_write {x : Field} (hx : x ≠ .faultDev) :
    (f.write items).entry x = Writing.turn items x (f.lowest x) (f.get x, false) := by
  have hlow : ∀ w : Writing, w.profile.lowest x = f.lowest x := fun w => Profile.lowest_of_ne hx ..
  have hbefore : ((f.writtenBeforeFault items).number items .faultDev).entry x =
      ((f.writtenBeforeWarn items).number items .warnDev).entry x := by
    rw [Writing.entry_number, if_neg hx, Profile.writtenBeforeFault, Writing.entry_raiseFault, if_neg hx]
  rcases fields_cases x with hearly | rfl | hfault | hlate
  · have hnever : x ∉ fieldsAfterFault ∧ x ≠ .warnDev :=
      ⟨fun h => (not_mem_fieldsBeforeWarn_of_late x h).1 hearly, fun e => absurd (e ▸ hearly) (by decide)⟩
    rw [f.entry_write_of_not_late items hnever.1, hbefore, Writing.entry_number, if_neg hnever.2, Profile.writtenBeforeWarn,
      Writing.entry_steering, Writing.entry_numbers_of_mem _ _ (by decide) hearly hx]
    simp [Writing.entry]
  · rw [f.entry_write_of_not_late items (by decide), hbefore, Writing.entry_number, if_pos rfl, hlow,
      f.entry_writtenBeforeWarn items (by decide)]
  · exact absurd hfault hx
  · obtain ⟨hearly, hwarn⟩ := not_mem_fieldsBeforeWarn_of_late x hlate
    rw [Profile.write_eq, Writing.entry_label, Writing.entry_numbers_of_mem _ _ (by decide) hlate hx, hbefore, Writing.entry_number,
      if_neg hwarn, f.entry_writtenBeforeWarn items hearly, hlow]

/-- Fault_dev is raised to the new warn_dev, counted if it was, and then takes its turn above it. -/
theorem Profile.entry_write_faultDev : (f.write items).entry .faultDev =
    Writing.turn items .faultDev (f.write items).profile.warnDev
      (max (f.write items).profile.warnDev f.faultDev, decide (f.faultDev < (f.write items).profile.warnDev)) := by
  have hwarn : (f.write items).profile.warnDev = ((f.writtenBeforeWarn items).number items .warnDev).profile.warnDev := by
    refine (congrArg Prod.fst (f.entry_write_of_not_late items (x := .warnDev) (by decide))).trans ?_
    exact (Writing.warnDev_number_faultDev ..).trans (Writing.warnDev_raiseFault _)
  have hfault : ((f.writtenBeforeWarn items).number items .warnDev).entry .faultDev = (f.faultDev, false) := by
    rw [Writing.entry_number, if_neg (by decide), f.entry_writtenBeforeWarn items (by decide)]
    rfl
  rw [f.entry_write_of_not_late items (by decide), Writing.entry_number, if_pos rfl, Profile.writtenBeforeFault, Writing.entry_raiseFault,
    if_pos rfl, hfault, hwarn]
  generalize (f.writtenBeforeWarn items).number items .warnDev = w at hfault ⊢
  have hold : w.profile.faultDev = f.faultDev := congrArg Prod.fst hfault
  rw [hold, Bool.false_or, show w.raiseFault.profile.lowest .faultDev = w.profile.warnDev from w.warnDev_raiseFault]

theorem Profile.steering_write : (f.write items).profile.steering =
    (steeringIn items).elim f.steering fun v => if v = 1 then .integrated else .short := by
  have hnumbers : ∀ (l : List Field) (w : Writing), (l.foldl (Writing.number items) w).profile.steering = w.profile.steering :=
    fun l w => Writing.numbers_keep items w (·.profile.steering) fun w x _ => w.steering_number items x
  rw [Profile.write_eq, Writing.steering_label, hnumbers, Writing.steering_number, Profile.writtenBeforeFault,
    Writing.steering_raiseFault, Writing.steering_number, Profile.writtenBeforeWarn,
    Writing.steering_steering, hnumbers]

theorem Profile.label_write : (f.write items).profile.label =
    (labelIn items).elim f.label fun chars => if chars = [] then none else some chars := by
  have hnumbers : ∀ (l : List Field) (w : Writing), (l.foldl (Writing.number items) w).profile.label = w.profile.label :=
    fun l w => Writing.numbers_keep items w (·.profile.label) fun w x _ => w.label_number items x
  rw [Profile.write_eq, Writing.label_label, hnumbers, Writing.label_number, Profile.writtenBeforeFault, Writing.label_raiseFault,
    Writing.label_number, Profile.writtenBeforeWarn, Writing.label_steering, hnumbers]

/-- A number that is no numeric field's, as those of the steering and the label, is never counted. -/
theorem Profile.clamped_write_of_ne {k : Nat} (hk : k < 16) (hn : ∀ x : Field, k ≠ x.id) :
    (f.write items).clamped.getLsbD k = false := by
  have hnumbers : ∀ (l : List Field) (w : Writing),
      (l.foldl (Writing.number items) w).clamped.getLsbD k = w.clamped.getLsbD k :=
    fun l w => Writing.numbers_keep items w (·.clamped.getLsbD k) fun w x _ => w.getLsbD_number items hk (hn x)
  rw [Profile.write_eq, Writing.clamped_label, hnumbers, Writing.getLsbD_number _ _ hk (hn _), Profile.writtenBeforeFault,
    Writing.getLsbD_raiseFault _ hk (hn _), Writing.getLsbD_number _ _ hk (hn _), Profile.writtenBeforeWarn,
    Writing.clamped_steering, hnumbers]
  exact BitVec.getLsbD_zero

end Write

end Sys2Proof.Machine

/-! PROOFS. WRITE_PROFILE of a slot that is not protected (R125 to R127, R184). -/

namespace Sys2Proof.Machine

section Turn
variable {items : List ProfileItem} {x : Field}

theorem Writing.turn_some {v : Int} (h : numberIn items x = some v) (lo : Int) (e : Int × Bool) : Writing.turn items x lo e =
    (limit lo (highestOf x) v, e.2 || decide (limit lo (highestOf x) v ≠ v)) := by
  simp only [Writing.turn, h]

theorem Writing.turn_none (h : numberIn items x = none) (lo : Int) (e : Int × Bool) : Writing.turn items x lo e = e := by
  simp only [Writing.turn, h]

variable (f : Profile)

/-- A named field but fault_dev is stored clamped, and counted if that changed it (R126). -/
theorem Profile.write_named {v : Int} (hx : x ≠ .faultDev) (h : numberIn items x = some v) :
    (f.write items).profile.get x = max (f.lowest x) (min (highestOf x) v) ∧
    (f.write items).clamped.getLsbD x.id = decide ((f.write items).profile.get x ≠ v) := by
  have he := f.entry_write items hx
  rw [Writing.turn_some h, Bool.false_or] at he
  obtain ⟨hget, hbit⟩ := Prod.mk.inj he
  exact ⟨hget, hget ▸ hbit⟩

/-- A field but fault_dev that is not named stands. -/
theorem Profile.write_unnamed (hx : x ≠ .faultDev) (h : numberIn items x = none) :
    (f.write items).profile.get x = f.get x ∧ (f.write items).clamped.getLsbD x.id = false := by
  have he := f.entry_write items hx
  rw [Writing.turn_none h] at he
  exact Prod.mk.inj he

/-- A named fault_dev is clamped above the new warn_dev, and counted also where it was raised before its turn (R126). -/
theorem Profile.write_named_faultDev {v : Int} (h : numberIn items .faultDev = some v) :
    (f.write items).profile.faultDev = max (f.write items).profile.warnDev (min 3000 v) ∧
    (f.write items).clamped.getLsbD 10 =
      decide ((f.write items).profile.faultDev ≠ v ∨ f.faultDev < (f.write items).profile.warnDev) := by
  have he := f.entry_write_faultDev items
  rw [Writing.turn_some h] at he
  obtain ⟨hget, hbit⟩ := Prod.mk.inj he
  refine ⟨hget, hbit.trans ?_⟩
  rw [← hget, Bool.decide_or, Bool.or_comm]
  rfl

/-- A fault_dev that is not named is raised to the new warn_dev, and counted if that changed it (R126). -/
theorem Profile.write_unnamed_faultDev (h : numberIn items .faultDev = none) :
    (f.write items).profile.faultDev = max (f.write items).profile.warnDev f.faultDev ∧
    (f.write items).clamped.getLsbD 10 = decide ((f.write items).profile.faultDev ≠ f.faultDev) := by
  have he := f.entry_write_faultDev items
  rw [Writing.turn_none h] at he
  obtain ⟨hget, hbit⟩ := Prod.mk.inj he
  refine ⟨hget, hbit.trans (decide_eq_decide.2 ?_)⟩
  have hfault : (f.write items).profile.faultDev = max (f.write items).profile.warnDev f.faultDev := hget
  omega

theorem Profile.write_named_steering {v : Int} (h : steeringIn items = some v) :
    (f.write items).profile.steering = .integrated ↔ v = 1 := by
  rw [f.steering_write items, h, Option.elim_some]
  split <;> simp [*]

end Turn

/-- Settles O40: the slot that the write makes of the old one is stored, and each field of it is that of its turn. -/
theorem writeProfileStores : Obligations.WriteProfileStores := by
  intro s port target p i rest items h ht hlen hitems hn hg P old
  obtain ⟨-, -, hok⟩ := (profileItems_eq_some ..).1 hitems
  have hserve := (serveWriteProfile_ready (i := i) h ht hitems).trans (needIdleSlot_idle (s := s.hear port) hn _)
  obtain ⟨t, hx, ha, hte, hq, hp⟩ := State.exec_storeSlot (c := .writeProfile) (serve := serveWriteProfile)
    (d := count8 i.val :: rest) (fun _ _ _ _ => rfl) h hg hn (Nat.succ_le_succ hlen) hserve
  have hresult : (if (old.write items).clamped != 0 then Result.clamped else .ok) =
      if (old.write items).clamped = 0 then .ok else .clamped := by simp only [bne_iff_ne, ne_eq, ite_not]
  have hslots : ∀ j : Slot, (t.prog p).slots[j] = if j = i then (old.write items).profile else P.slots[j] := fun j => by
    rw [hp, Programme.slots_stored]
  refine ⟨t, (old.write items).clamped, hx, hresult ▸ ha, hte, hq, ?_⟩
  rw [(hslots i).trans (if_pos rfl)]
  intro new
  refine ⟨fun j hj => (hslots j).trans (if_neg hj), Profile.write_inRange ((hg.prog p).slots i) hok,
    fun f hf => ⟨fun v hv => old.write_named hf hv, fun hv => old.write_unnamed hf hv⟩,
    fun v hv => old.write_named_faultDev hv, fun hv => old.write_unnamed_faultDev hv,
    fun v hv => old.write_named_steering hv, fun hv => ?_, ?_, ?_, fun chars hc => ?_, fun hc => ?_, ?_⟩
  case refine_1 => exact (old.steering_write items).trans (by rw [hv]; rfl)
  case refine_2 => exact old.clamped_write_of_ne items (by decide) fun x => by cases x <;> decide
  case refine_3 => exact old.clamped_write_of_ne items (by decide) fun x => by cases x <;> decide
  case refine_4 => exact (old.label_write items).trans (by rw [hc]; rfl)
  case refine_5 => exact (old.label_write items).trans (by rw [hc]; rfl)
  case refine_6 =>
    rw [hp]
    rfl

end Sys2Proof.Machine

/-! PROOFS. Operations that read no notice set, and of the notice sets touch nothing but the pending bits that their events set: beside
those of the audio side, the cue unit's. -/

namespace Sys2Proof.Machine

/-- The part `s` with the notice sets `n`. -/
def State.withNotices (s : State) (n : Vector Notice 3) : State := { s with notices := n }

@[simp] theorem State.cue_withNotices (s : State) (n : Vector Notice 3) (l : CueLine) : (s.withNotices n).cue l = s.cue l := rfl

/-- At `s`, whatever the notice sets, `g` does what it does at `s` and fires the events of `fired`. -/
def State.Signals (s : State) (g : State → State) (fired : SourceSet) : Prop :=
  ∀ n, g (s.withNotices n) = ((g s).withNotices n).fireSet fired

section Signals
variable {s : State} {g k : State → State} {a b : SourceSet}

theorem State.Signals.comp (hg : s.Signals g a) (hk : (g s).Signals k b) : s.Signals (fun u => k (g u)) (a ||| b) := fun n => by
  have hfire : ((g s).withNotices n).fireSet a = (g s).withNotices (((g s).withNotices n).fireSet a).notices := rfl
  show k (g _) = _
  rw [hg n, hfire, hk, ← State.fireSet_fireSet]
  rfl

/-- Quiet work before such an operation fires nothing more. -/
theorem State.Signals.comp_quiet (hg : s.Signals g 0) (hk : (g s).Signals k b) : s.Signals (fun u => k (g u)) b :=
  (BitVec.zero_or (x := b)) ▸ hg.comp hk

theorem State.Signals.of_eq (h : ∀ n, g (s.withNotices n) = k (s.withNotices n)) (hk : s.Signals k a) : s.Signals g a :=
  fun n => by
    have hs : g s = k s := h s.notices
    rw [h, hk, hs]

theorem State.Signals.quiet (h : ∀ n, g (s.withNotices n) = ((g s).withNotices n)) : s.Signals g 0 := fun n => by
  rw [h, State.fireSet_zero]

/-- An operation of the audio side is one of these. -/
theorem State.Fires.signals (h : s.Fires g a) : s.Signals g a := fun n => by
  have hn : g (s.withNotices n) = (g s).within (State.fireSet (s.withNotices n) a) := h (s.withNotices n)
  rw [hn, h.frame]
  rfl

theorem State.Signals.notice (h : s.Signals g a) (q : Port) : (g s).notice q =
    { s.notice q with pending := (s.notice q).pending ||| ((s.notice q).mask &&& a) } :=
  (congrArg (State.notice · q) (h s.notices)).trans (State.notice_fireSet _ a q)

/-- Such an operation, followed, leaves the notice sets as its events and its changes of conditions make them. -/
theorem State.Signals.follow (h : s.Signals g a) : s.NoticesFollow ((g s).followFrom s) a := fun q => by
  rw [State.notice_followFrom, h.notice, State.conditions_followFrom]

/-- Work that changes no condition, done and followed before such an operation that would do it too, makes no difference. -/
theorem State.Signals.followFrom_absorb {u : State} (h : u.Signals g a) (hu : g u = g s) (hc : u.conditions = s.conditions) :
    (g (u.followFrom s)).followFrom (u.followFrom s) = (g s).followFrom s := by
  have hg : g (u.followFrom s) = ((g u).withNotices (u.followFrom s).notices).fireSet a := h (u.followFrom s).notices
  rw [hg, ← hu]
  refine State.ext_fields rfl rfl rfl rfl rfl rfl rfl rfl rfl rfl rfl rfl rfl rfl (State.notices_ext fun q => ?_) rfl
  have hone := Notice.follow_fired_follow (u.notice q) s.conditions u.conditions (g u).conditions a (by simp [hc])
  rw [State.notice_followFrom, State.notice_followFrom, h.notice, State.notice_fireSet]
  exact (congrArg (fun m : Notice => Notice.follow { m with pending := m.pending ||| (m.mask &&& a) } u.conditions (g u).conditions)
    (State.notice_followFrom u s q)).trans hone

end Signals

end Sys2Proof.Machine

/-! PROOFS. CUE_ASSERTION and CUE_RELEASE (R140, R147, R148, R150 to R152): each as its flag, its entry and its action, with the completion
that is due before them. -/

namespace Sys2Proof.Machine

/-! ### The steps of a qualified transition -/

/-- The flag of line `l` is `b` from here on, and its width measurement idle (R147, R148). -/
def State.flagCue (s : State) (l : CueLine) (b : Bool) : State := s.onCue l fun c => { c with asserted := b, run := 0 }

/-- The entry that a capture of line `l` makes now (R150, R151). -/
def State.cueEntry (s : State) (l : CueLine) (kind : CueKind) (action : CueAction) : CueEntry where
  line := l
  kind := kind
  programme := (s.cue l).config.programme
  counter := (s.prog (s.cue l).config.programme).front.counter
  offset := s.captureOffset (s.cue l).config.programme
  action := action
  gap := s.gapMark

/-- The flag of line `l` is clear and its action PAUSE undone (R148). -/
def State.clearCue (s : State) (l : CueLine) : State :=
  if (s.cue l).config.action = .pause then (s.flagCue l false).unpauseCue (s.cue l).config.programme else s.flagCue l false

/-- The action that the entry of a release carries (R150). -/
def CueConfig.releaseAction (f : CueConfig) : CueAction := if f.action = .pause then .pause else .nothing

section Steps
variable (s : State) (l : CueLine)

theorem State.cue_flagCue (b : Bool) (k : CueLine) :
    (s.flagCue l b).cue k = if k = l then { s.cue l with asserted := b, run := 0 } else s.cue k := by
  rw [State.flagCue, State.cue_onCue]
  split
  · rename_i e
    rw [e]
  · rfl

theorem State.config_flagCue (b : Bool) (k : CueLine) : ((s.flagCue l b).cue k).config = (s.cue k).config := by
  rw [State.cue_flagCue]
  split
  · rename_i e
    rw [e]
  · rfl

theorem State.assertCue_eq : s.assertCue l = ((s.flagCue l true).capture l .asserted (s.cue l).config.action).applyAction
    (s.cue l).config.programme (s.cue l).config.action := rfl

theorem State.clearCue_pause (h : (s.cue l).config.action = .pause) :
    s.clearCue l = (s.flagCue l false).unpauseCue (s.cue l).config.programme := if_pos h

theorem State.clearCue_still (h : (s.cue l).config.action ≠ .pause) : s.clearCue l = s.flagCue l false := if_neg h

/-- The release of the flag changes the lines and the programmes alone. -/
theorem State.clearCue_frame : s.clearCue l = { s with progs := (s.clearCue l).progs, cues := (s.flagCue l false).cues } := by
  rw [State.clearCue]
  split <;> rfl

theorem State.prog_clearCue (q : Prog) : (s.clearCue l).prog q =
    if q = (s.cue l).config.programme ∧ (s.cue l).config.action = .pause then { s.prog q with cuePause := (s.prog q).cuePause - 1 }
    else s.prog q := by
  by_cases ha : (s.cue l).config.action = .pause
  · simp only [State.clearCue_pause _ _ ha, State.unpauseCue, State.prog_onProg, ha, and_true]
    rfl
  · rw [State.clearCue_still _ _ ha, if_neg fun h => ha h.2]
    rfl

theorem State.front_clearCue (q : Prog) : ((s.clearCue l).prog q).front = (s.prog q).front := by
  rw [State.prog_clearCue]
  split <;> rfl

/-- The transition of a flag does not enter what its entry says. -/
theorem State.cueEntry_congr {u : State} (hc : (u.cue l).config = (s.cue l).config) (hf : ∀ q, (u.prog q).front = (s.prog q).front)
    (hm : u.clockLost = s.clockLost) (hg : u.gapMark = s.gapMark) (kind : CueKind) (action : CueAction) :
    u.cueEntry l kind action = s.cueEntry l kind action := by
  simp only [State.cueEntry, State.captureOffset, hc, hf, hm, hg]

/-- A capture with nothing due is its entry offered to the log (R151, R152). -/
theorem State.capture_of_not_due (h : (s.prog (s.cue l).config.programme).front.due = false) (kind : CueKind) (action : CueAction) :
    s.capture l kind action = s.logCue (s.cueEntry l kind action) := by
  simp only [State.capture, State.complete_of_not_due h]
  rfl

theorem State.assertCue_of_not_due (h : (s.prog (s.cue l).config.programme).front.due = false) : s.assertCue l =
    ((s.flagCue l true).logCue (s.cueEntry l .asserted (s.cue l).config.action)).applyAction (s.cue l).config.programme
      (s.cue l).config.action := by
  have hc := s.config_flagCue l true l
  rw [State.assertCue_eq, State.capture_of_not_due _ _ (by rw [hc]; exact h),
    s.cueEntry_congr l hc (fun _ => rfl) rfl rfl]

theorem State.releaseCue_of_not_due (h : (s.prog (s.cue l).config.programme).front.due = false) : s.releaseCue l =
    if (s.cue l).config.captureRelease then
      (s.clearCue l).logCue (s.cueEntry l .released (s.cue l).config.releaseAction)
    else s.clearCue l := by
  have hc : ((s.clearCue l).cue l).config = (s.cue l).config := by
    rw [State.clearCue_frame]
    exact s.config_flagCue l false l
  have hm : (s.clearCue l).clockLost = s.clockLost := by
    rw [State.clearCue_frame]
    rfl
  have hg : (s.clearCue l).gapMark = s.gapMark := by rw [State.clearCue_frame]
  rw [← s.cueEntry_congr l hc (s.front_clearCue l) hm hg, ← State.capture_of_not_due _ _ (by rw [hc, State.front_clearCue]; exact h)]
  simp only [State.releaseCue, State.complete_of_not_due h]
  rfl

end Steps

/-! ### The completion before a transition (R151, log entry 5) -/

theorem State.complete_complete (s : State) (p : Prog) : (s.complete p).complete p = s.complete p :=
  State.complete_of_not_due (by simp [State.due_complete])

/-- The lines are no matter to an operation of the audio side. -/
theorem AudioOp.withCues {g : State → State} (hg : AudioOp g) (s : State) (c : Vector CueState 4) :
    g { s with cues := c } = { g s with cues := c } := by
  obtain ⟨fired, hf⟩ := hg s
  have hw : g { s with cues := c } = (g s).within (State.fireSet { s with cues := c } fired) := hf { s with cues := c }
  rw [hw, hf.frame]
  rfl

theorem State.complete_flagCue (s : State) (p : Prog) (l : CueLine) (b : Bool) :
    (s.flagCue l b).complete p = (s.complete p).flagCue l b := by
  have hf : s.flagCue l b = { s with cues := (s.flagCue l b).cues } := rfl
  rw [hf, (audioOp_complete p).withCues, s.complete_frame p]
  rfl

section Completed
variable (s : State) (l : CueLine)

theorem State.capture_complete (kind : CueKind) (action : CueAction) :
    (s.complete (s.cue l).config.programme).capture l kind action = s.capture l kind action := by
  have hc : (s.complete (s.cue l).config.programme).cue l = s.cue l := (audioOp_complete _).cue s l
  simp only [State.capture, hc, State.complete_complete]

/-- A transition completes the sub-block of its programme itself. -/
theorem State.assertCue_complete : (s.complete (s.cue l).config.programme).assertCue l = s.assertCue l := by
  have hc : (s.complete (s.cue l).config.programme).cue l = s.cue l := (audioOp_complete _).cue s l
  have hcap := (s.flagCue l true).capture_complete l .asserted (s.cue l).config.action
  rw [s.config_flagCue l true l, State.complete_flagCue] at hcap
  rw [State.assertCue_eq, State.assertCue_eq, hc, hcap]

theorem State.releaseCue_complete : (s.complete (s.cue l).config.programme).releaseCue l = s.releaseCue l := by
  have hc : (s.complete (s.cue l).config.programme).cue l = s.cue l := (audioOp_complete _).cue s l
  simp only [State.releaseCue, hc, State.complete_complete]

end Completed

end Sys2Proof.Machine

/-! PROOFS. CUE_ASSERTION and CUE_RELEASE: the events that they fire, what they leave, and the commands themselves (R140, R147, R148, R150
to R152). -/

namespace Sys2Proof.Machine

/-! ### Entries (R150, R152) -/

/-- The entry `e` was offered to the log between `s` and `t`, where the events of `fired` fired besides (R152). -/
def State.Logs (s t : State) (e : CueEntry) (fired : SourceSet) : Prop :=
  (s.cueLog.length < 8 → t.cueLog = s.cueLog ++ [e] ∧ t.gapMark = false ∧ s.NoticesFollow t fired) ∧
  (8 ≤ s.cueLog.length → t.cueLog = s.cueLog ∧ t.gapMark = true ∧ s.NoticesFollow t (fired ||| Source.cueOverflow.bit))

theorem State.logCue_frame (s : State) (e : CueEntry) : s.logCue e =
    { s with cueLog := (s.logCue e).cueLog, gapMark := (s.logCue e).gapMark, notices := (s.logCue e).notices } := by
  obtain ⟨room, full⟩ := s.logCue_cases e
  rcases Nat.lt_or_ge s.cueLog.length 8 with h | h
  · rw [room h]
  · rw [full h]
    rfl

/-- CUE_OVERFLOW fires where the log is full (R152). -/
theorem State.signals_logCue (s : State) (e : CueEntry) :
    s.Signals (State.logCue · e) (Source.cueOverflow.bitIf (decide (8 ≤ s.cueLog.length))) := by
  have hcases := fun n => (s.withNotices n).logCue_cases e
  rcases Nat.lt_or_ge s.cueLog.length 8 with h | h
  · rw [decide_eq_false (Nat.not_le.2 h)]
    exact (State.Signals.quiet fun _ => rfl).of_eq
      (k := fun u : State => { u with cueLog := u.cueLog ++ [{ e with gap := u.gapMark }], gapMark := false }) fun n => (hcases n).1 h
  · rw [decide_eq_true h]
    exact State.Signals.of_eq (k := fun u : State => { u with gapMark := true }.fire .cueOverflow) (fun n => (hcases n).2 h) fun _ => rfl

/-- Offering an entry after work that leaves the log. -/
theorem State.logs_logCue {s u t : State} {e : CueEntry} {fired : SourceSet} (hl : u.cueLog = s.cueLog) (hg : u.gapMark = s.gapMark)
    (he : e.gap = s.gapMark) (htl : t.cueLog = (u.logCue e).cueLog) (htg : t.gapMark = (u.logCue e).gapMark)
    (hn : s.NoticesFollow t (fired ||| Source.cueOverflow.bitIf (decide (8 ≤ s.cueLog.length)))) : s.Logs t e fired := by
  obtain ⟨room, full⟩ := u.logCue_cases e
  rw [hl] at room full
  refine ⟨fun h => ⟨?_, ?_, ?_⟩, fun h => ⟨?_, ?_, ?_⟩⟩
  · rw [htl, room h, hg, ← he]
  · rw [htg, room h]
  · rw [decide_eq_false (Nat.not_le.2 h)] at hn
    exact (BitVec.or_zero (x := fired)) ▸ hn
  · rw [htl, full h]
    rfl
  · rw [htg, full h]
    rfl
  · rwa [decide_eq_true h] at hn

/-! ### Actions (R140, R147) -/

section Action
variable (s : State) (p : Prog)

/-- An action fires SLOT_SWITCHED where it is SWAP (R140). -/
theorem State.fires_applyAction (a : CueAction) :
    s.Fires (State.applyAction · p a) (Source.slotSwitched.bitIf (decide (a = .swap))) := by
  cases a with
  | nothing => exact .quiet fun _ => rfl
  | restart => exact .quiet fun _ => rfl
  | swap => exact s.fires_switchSlot p
  | pause => exact .quiet fun _ => rfl

theorem State.applyAction_frame (a : CueAction) :
    s.applyAction p a = { s with progs := (s.applyAction p a).progs, notices := (s.applyAction p a).notices } := by
  cases a with
  | nothing => rfl
  | restart => rfl
  | swap => exact s.switchSlot_frame p
  | pause => rfl

/-- What the actions but SWAP make of their programme. -/
def Programme.acted (P : Programme) : CueAction → Programme
  | .nothing | .swap => P
  | .restart => P.restartSegment
  | .pause => { P with cuePause := P.cuePause + 1 }

/-- An action but SWAP is a matter of its programme alone. -/
theorem State.prog_applyAction {a : CueAction} (ha : a ≠ .swap) (q : Prog) :
    (s.applyAction p a).prog q = if q = p then (s.prog q).acted a else s.prog q := by
  cases a with
  | nothing => exact (ite_self _).symm
  | restart => exact s.prog_onProg p _ q
  | swap => exact absurd rfl ha
  | pause => exact s.prog_onProg p _ q

end Action

/-! ### The transitions with nothing due -/

section Transition
variable {s : State} {l : CueLine}

theorem State.signals_assertCue (h : (s.prog (s.cue l).config.programme).front.due = false) : s.Signals (State.assertCue · l)
    (Source.slotSwitched.bitIf (decide ((s.cue l).config.action = .swap)) |||
      Source.cueOverflow.bitIf (decide (8 ≤ s.cueLog.length))) := by
  have hflag : s.Signals (State.flagCue · l true) 0 := .quiet fun _ => rfl
  have hlog := (s.flagCue l true).signals_logCue (s.cueEntry l .asserted (s.cue l).config.action)
  have hact := (((s.flagCue l true).logCue (s.cueEntry l .asserted (s.cue l).config.action)).fires_applyAction
    (s.cue l).config.programme (s.cue l).config.action).signals
  have hall := (hflag.comp_quiet hlog).comp hact
  rw [BitVec.or_comm] at hall
  exact hall.of_eq fun n => State.assertCue_of_not_due (s.withNotices n) l h

theorem State.signals_clearCue (s : State) (l : CueLine) : s.Signals (State.clearCue · l) 0 := .quiet fun n => by
  by_cases ha : (s.cue l).config.action = .pause
  · rw [State.clearCue_pause _ _ ha, State.clearCue_pause (s.withNotices n) _ ha]
    rfl
  · rw [State.clearCue_still _ _ ha, State.clearCue_still (s.withNotices n) _ ha]
    rfl

theorem State.cueLog_clearCue (s : State) (l : CueLine) : (s.clearCue l).cueLog = s.cueLog := by rw [State.clearCue_frame]

theorem State.signals_releaseCue (h : (s.prog (s.cue l).config.programme).front.due = false) : s.Signals (State.releaseCue · l)
    (Source.cueOverflow.bitIf ((s.cue l).config.captureRelease && decide (8 ≤ s.cueLog.length))) := by
  have heq := fun n => State.releaseCue_of_not_due (s.withNotices n) l h
  cases hc : (s.cue l).config.captureRelease with
  | true =>
    have hall := (s.signals_clearCue l).comp_quiet
      ((s.clearCue l).signals_logCue (s.cueEntry l .released (s.cue l).config.releaseAction))
    rw [State.cueLog_clearCue] at hall
    exact hall.of_eq fun n => (heq n).trans (if_pos (by exact hc))
  | false => exact (s.signals_clearCue l).of_eq fun n => (heq n).trans (if_neg (by simp [hc]))

end Transition

/-! ### The commands -/

/-- The next sample of line `l` at its opposite level qualifies a transition (R145, R200). -/
structure State.CueReady (s : State) (l : CueLine) : Prop where
  held : s.held = false
  enabled : (s.cue l).config.enabled = true
  wide : 8 * (s.cue l).config.width ≤ (s.cue l).run

section Commands
variable {s : State} {l : CueLine}

theorem State.CueReady.congr {u : State} (h : s.CueReady l) (hh : u.held = s.held) (hc : u.cues = s.cues) : u.CueReady l := by
  have hl : u.cue l = s.cue l := by simp only [State.cue, hc]
  exact ⟨hh.trans h.held, hl ▸ h.enabled, hl ▸ h.wide⟩

theorem State.CueReady.qualifies (h : s.CueReady l) : (s.cue l).qualifies = true := by
  simp [CueState.qualifies, CueState.wideEnough, h.enabled, h.wide]

theorem exec_cueAssertion (h : s.CueReady l) (ha : (s.cue l).asserted = false) :
    exec (.cueAssertion l) s = .next ((s.assertCue l).followFrom s) :=
  congrArg Host.Outcome.next (if_pos (by simp [h.held, h.qualifies, ha]))

theorem exec_cueRelease (h : s.CueReady l) (ha : (s.cue l).asserted = true) :
    exec (.cueRelease l) s = .next ((s.releaseCue l).followFrom s) :=
  congrArg Host.Outcome.next (if_pos (by simp [h.held, h.qualifies, ha]))

/-- A command that does `g` and follows it, where `g` does the completion of `p` itself, comes to the same after the completion's own
command (log entry 5). -/
theorem run_completion_before {s : State} {p : Prog} {c : Instr} {g : State → State} {fired : SourceSet} (hh : s.held = false)
    (hc : ∀ u : State, u.held = s.held → u.cues = s.cues → exec c u = .next ((g u).followFrom u))
    (hg : g ({ s with pending := [] }.complete p) = g { s with pending := [] })
    (hs : ({ s with pending := [] }.complete p).Signals g fired) :
    run 2 { s with pending := [.subblockCompletion p, c] } = exec c { s with pending := [] } := by
  generalize hv : ({ s with pending := [] } : State) = v at hg hs ⊢
  have hfirst : step { s with pending := [.subblockCompletion p, c] } =
      .next { (v.complete p).followFrom v with pending := [c] } := by
    rw [step_cons rfl, ← hv, ← (audioOp_complete p).followFrom_pending _ [c]]
    exact congrArg Host.Outcome.next (if_neg (by simp [hh]))
  have hframe := v.complete_frame p
  have hcond : (v.complete p).conditions = v.conditions := (audioOp_complete p).conditions_eq (by rw [hframe]; rfl)
    (v.steady_complete p) (v.deviation_complete p)
  have hpending : { (v.complete p).followFrom v with pending := [] } = (v.complete p).followFrom v := by
    rw [hframe, ← hv]
    rfl
  have hlast : exec c ((v.complete p).followFrom v) = exec c v := by
    rw [hc _ ?_ ?_, hc v (by rw [← hv]) (by rw [← hv]), hs.followFrom_absorb hg hcond]
    · rw [hframe, ← hv]; rfl
    · rw [hframe, ← hv]; rfl
  refine (run_succ (k := 1) hfirst).trans ?_
  rw [run_one, step_cons rfl, ← hlast, ← hpending]

end Commands

end Sys2Proof.Machine

/-! PROOFS. What a qualified transition of a cue line leaves (R140, R147, R148, R150 to R152). -/

namespace Sys2Proof.Machine

section Asserted
variable {s : State} {l : CueLine} (h : (s.prog (s.cue l).config.programme).front.due = false)
include h

theorem State.assertCue_frame : s.assertCue l = { s with
    progs := (s.assertCue l).progs, cues := (s.flagCue l true).cues, cueLog := (s.assertCue l).cueLog
    gapMark := (s.assertCue l).gapMark, notices := (s.assertCue l).notices } := by
  rw [State.assertCue_of_not_due s l h, State.applyAction_frame, State.logCue_frame]
  rfl

/-- An assertion offers its entry to the log (R147, R152). -/
theorem State.logs_assertCue : s.Logs ((s.assertCue l).followFrom s) (s.cueEntry l .asserted (s.cue l).config.action)
    (Source.slotSwitched.bitIf (decide ((s.cue l).config.action = .swap))) := by
  refine State.logs_logCue (u := s.flagCue l true) rfl rfl rfl ?_ ?_ (State.signals_assertCue h).follow
  · rw [State.followFrom_cueLog, State.assertCue_of_not_due s l h, State.applyAction_frame]
  · rw [State.followFrom_gapMark, State.assertCue_of_not_due s l h, State.applyAction_frame]

/-- An assertion under another action than SWAP makes of the programmes what the action does (R147). -/
theorem State.prog_assertCue (ha : (s.cue l).config.action ≠ .swap) (q : Prog) : (s.assertCue l).prog q =
    if q = (s.cue l).config.programme then (s.prog q).acted (s.cue l).config.action else s.prog q := by
  rw [State.assertCue_of_not_due s l h, State.prog_applyAction _ _ ha, State.logCue_frame]
  rfl

/-- An assertion under SWAP changes the slot in service (R140, R147). -/
theorem State.prog_assertCue_swap (ha : (s.cue l).config.action = .swap) (q : Prog) :
    (s.assertCue l).prog q = (s.switchSlot (s.cue l).config.programme).prog q := by
  rw [State.assertCue_of_not_due s l h, ha]
  refine congrArg (fun v : Vector Programme 8 => v[q]) (State.progs_switchSlot_congr (v := s) ?_ ?_ _) <;> rw [State.logCue_frame] <;> rfl

end Asserted

section Released
variable {s : State} {l : CueLine} (h : (s.prog (s.cue l).config.programme).front.due = false)
include h

/-- A release leaves of all but the log and the notice sets what the release of the flag leaves (R148). -/
theorem State.releaseCue_frame : s.releaseCue l = { s with
    progs := (s.clearCue l).progs, cues := (s.flagCue l false).cues, cueLog := (s.releaseCue l).cueLog
    gapMark := (s.releaseCue l).gapMark, notices := (s.releaseCue l).notices } := by
  rw [State.releaseCue_of_not_due s l h]
  split
  · rw [State.logCue_frame, State.clearCue_frame]
  · rw [State.clearCue_frame]

/-- A release that is captured offers its entry to the log (R148, R152). -/
theorem State.logs_releaseCue (hc : (s.cue l).config.captureRelease = true) :
    s.Logs ((s.releaseCue l).followFrom s) (s.cueEntry l .released (s.cue l).config.releaseAction) 0 := by
  have he : s.releaseCue l = (s.clearCue l).logCue (s.cueEntry l .released (s.cue l).config.releaseAction) :=
    (State.releaseCue_of_not_due s l h).trans (if_pos hc)
  have hn := (State.signals_releaseCue h).follow
  rw [hc, Bool.true_and, ← BitVec.zero_or (x := Source.cueOverflow.bitIf _)] at hn
  refine State.logs_logCue (s.cueLog_clearCue l) ?_ rfl ?_ ?_ hn
  · rw [State.clearCue_frame]
  · rw [State.followFrom_cueLog, he]
  · rw [State.followFrom_gapMark, he]

/-- A release that is not captured leaves the log. -/
theorem State.releaseCue_uncaptured (hc : (s.cue l).config.captureRelease = false) : s.releaseCue l = s.clearCue l :=
  (State.releaseCue_of_not_due s l h).trans (if_neg (by simp [hc]))

end Released

/-! ### CUE_ASSERTION and CUE_RELEASE -/

theorem State.due_completed (s : State) (l : CueLine) : ((s.complete (s.cue l).config.programme).prog
    ((s.complete (s.cue l).config.programme).cue l).config.programme).front.due = false := by
  rw [(audioOp_complete _).cue s l, State.due_complete, decide_eq_false (not_not.2 rfl), Bool.false_and]

/-- A completion that is due comes first, whether the transition is an assertion or a release (R151, log entry 5). -/
theorem State.CueReady.run_completion {s : State} {l : CueLine} (h : s.CueReady l) :
    ((s.cue l).asserted = false → run 2 { s with pending := [.subblockCompletion (s.cue l).config.programme, .cueAssertion l] } =
      exec (.cueAssertion l) { s with pending := [] }) ∧
    ((s.cue l).asserted = true → run 2 { s with pending := [.subblockCompletion (s.cue l).config.programme, .cueRelease l] } =
      exec (.cueRelease l) { s with pending := [] }) := by
  have hcue : ∀ {u : State}, u.cues = s.cues → u.cue l = s.cue l := fun hc => by simp only [State.cue, hc]
  have hdue := State.due_completed { s with pending := [] } l
  refine ⟨fun ha => ?_, fun ha => ?_⟩
  · exact run_completion_before (g := (State.assertCue · l)) h.held
      (fun u hh hc => exec_cueAssertion (h.congr hh hc) (by rw [hcue hc, ha]))
      (State.assertCue_complete { s with pending := [] } l) (State.signals_assertCue hdue)
  · exact run_completion_before (g := (State.releaseCue · l)) h.held
      (fun u hh hc => exec_cueRelease (h.congr hh hc) (by rw [hcue hc, ha]))
      (State.releaseCue_complete { s with pending := [] } l) (State.signals_releaseCue hdue)

/-- Settles O51: the completion first, then the assertion by its action and the release by its capture. -/
theorem cueTransitionsAct : Obligations.CueTransitionsAct := by
  intro s l c p P entry logs frame hh he hw
  have hready : s.CueReady l := ⟨hh, he, hw⟩
  refine ⟨fun _ => hready.run_completion, fun hd ha => ?_, fun hd ha => ?_⟩
  all_goals have hdue : (s.prog (s.cue l).config.programme).front.due = false := decide_eq_false (Nat.not_le.2 hd)
  · have hframe := State.assertCue_frame hdue
    have hcue : ∀ k, (s.assertCue l).cue k = (s.flagCue l true).cue k := fun k => by
      rw [hframe]
      rfl
    have hacted : ∀ {a}, c.config.action = a → a ≠ .swap → (s.assertCue l).prog p = P.acted a := fun hact hns => by
      subst hact
      exact (State.prog_assertCue hdue hns p).trans (if_pos rfl)
    refine ⟨_, exec_cueAssertion hready ha, ⟨?_, fun k hk => ?_⟩, ?_, State.logs_assertCue hdue, fun hns q hq => ?_, fun hact => ?_,
      fun hact => ?_, fun hact => ?_, fun hact => ?_⟩
    · rw [hframe]
      rfl
    · rw [State.cue_followFrom, hcue, State.cue_flagCue, if_neg hk]
    · rw [State.cue_followFrom, hcue, State.cue_flagCue, if_pos rfl]
    · exact (State.prog_assertCue hdue hns q).trans (if_neg hq)
    · exact hacted hact (by decide)
    · exact hacted hact (by decide)
    · have hswap := State.prog_assertCue_swap hdue hact
      refine ⟨otherSlot P.inService, otherSlot_ne _, fun q => ?_, fun hg q => ?_⟩
      · rw [State.prog_followFrom, hswap]
        exact s.prog_switchSlot_switched p q
      · rw [State.prog_followFrom, hswap]
        exact State.switchSlot_switched hg p q
    · exact hacted hact (by decide)
  · have hframe := State.releaseCue_frame hdue
    have hcue : ∀ k, (s.releaseCue l).cue k = (s.flagCue l false).cue k := fun k => by
      rw [hframe]
      rfl
    have hprog : ∀ q, (s.releaseCue l).prog q = (s.clearCue l).prog q := fun q => by
      rw [hframe]
      rfl
    refine ⟨_, exec_cueRelease hready ha, ⟨?_, fun k hk => ?_⟩, ?_, fun q hq => ?_, ?_, fun hc => State.logs_releaseCue hdue hc,
      fun hc => ⟨?_, ?_, ?_⟩⟩
    · rw [hframe]
      rfl
    · rw [State.cue_followFrom, hcue, State.cue_flagCue, if_neg hk]
    · rw [State.cue_followFrom, hcue, State.cue_flagCue, if_pos rfl]
    · rw [State.prog_followFrom, hprog, State.prog_clearCue, if_neg fun e => hq e.1]
    · rw [State.prog_followFrom, hprog, State.prog_clearCue]
      simp only [true_and, p, c, P]
    · rw [State.followFrom_cueLog, State.releaseCue_uncaptured hdue hc, State.cueLog_clearCue]
    · rw [State.followFrom_gapMark, State.releaseCue_uncaptured hdue hc, State.clearCue_frame]
    · have hn := (State.signals_releaseCue hdue).follow
      rwa [hc] at hn

end Sys2Proof.Machine

/-! PROOFS. CONFIG_CUE: the configuration of a line replaced, and its old state closed (R143, R144). -/

namespace Sys2Proof.Machine

/-! ### The operation -/

section Configured
variable (s : State) (l : CueLine) (f : CueConfig)

/-- A configuration changes the lines and the programmes alone. -/
theorem State.configureCue_frame :
    s.configureCue l f = { s with progs := (s.configureCue l f).progs, cues := (s.configureCue l f).cues } := by
  simp only [State.configureCue]
  split <;> rfl

theorem State.cue_configureCue (k : CueLine) :
    (s.configureCue l f).cue k = if k = l then { config := f, asserted := false, run := 0 } else s.cue k := by
  simp only [State.configureCue, State.cue_onCue]
  split
  · rfl
  · split <;> rfl

/-- The old state of the line is closed: an assertion under PAUSE gives back its count (R144). -/
theorem State.prog_configureCue (p : Prog) : (s.configureCue l f).prog p =
    if (s.cue l).pauses p then { s.prog p with cuePause := (s.prog p).cuePause - 1 } else s.prog p := by
  simp only [State.configureCue, State.prog_onCue, CueState.pauses]
  split
  · rename_i hb
    simp [hb, State.unpauseCue, eq_comm (a := p)]
  · rename_i hb
    simp [hb]

end Configured

/-! ### The request -/

theorem polarityOf_code (p : Polarity) : polarityOf (if p = .activeLow then 1 else 0) = some p := by cases p <;> rfl

/-- The payload of CONFIG_CUE with its width in `lo` and `hi` (R143). -/
def CueConfig.payload (f : CueConfig) (lo hi : Byte) : List Byte :=
  [if f.enabled then 1 else 0, count8 f.programme.val, if f.polarity = .activeLow then 1 else 0, lo, hi,
   count8 f.action.code, if f.captureRelease then 1 else 0]

theorem serveConfigCue_ready {s : State} {port : Port} {target lo hi : Byte} {l : CueLine} {f : CueConfig}
    (h : s.ReadyHolder port deviceRecord) (ht : target.toNat = l.val) (hw : f.width = min (hi ++ lo : BitVec 16).toNat 255) :
    serveConfigCue port target (f.payload lo hi) (s.hear port) =
      doneClamped ((s.hear port).configureCue l f) (f.width != (hi ++ lo : BitVec 16).toNat) [] := by
  have henabled : boolOf (byteAt (f.payload lo hi) 0) = some f.enabled := boolOf_ofBool _
  have hprog : (byteAt (f.payload lo hi) 1).toNat = f.programme.val := count8_fin (by decide) _
  have hpolarity : polarityOf (byteAt (f.payload lo hi) 2) = some f.polarity := polarityOf_code _
  have hwidth : word16At (f.payload lo hi) 3 = hi ++ lo := rfl
  have haction : actionOf (byteAt (f.payload lo hi) 5) = some f.action := actionOf_code _
  have hcapture : boolOf (byteAt (f.payload lo hi) 6) = some f.captureRelease := boolOf_ofBool _
  rw [serveConfigCue, needFull_full (by rw [State.access_hear]; exact h.1.2), needSize_eq (n := 7) rfl, needBelow_eq ht,
    needBelow_eq hprog, needValue_some henabled, needValue_some hpolarity, needValue_some haction, needValue_some hcapture,
    needClaim_held (by rw [State.holder_hear]; exact h.2), hwidth]
  simp only [← hw]

/-- A width is clamped exactly where it lies above 255 (R143). -/
theorem width_clamped (v : Nat) : (min v 255 != v) = !decide (v ≤ 255) := by
  rw [Bool.eq_iff_iff]
  simp only [bne_iff_ne, Bool.not_eq_true', decide_eq_false_iff_not]
  omega

/-- Settles O48: the request passes every check, and its effect is that of the configuration. -/
theorem configCueStartsTheLineAfresh : Obligations.ConfigCueStartsTheLineAfresh := by
  intro s port target l f lo hi h ht hw
  obtain ⟨t, hx, ha, hte, -⟩ := State.takeMessage_quiet 0x32 target h.1.1 (payload := f.payload lo hi) (by decide : 7 ≤ 48)
    (serveConfigCue_ready h ht hw) (by rw [State.configureCue_frame]) (by rw [State.configureCue_frame])
  have hcue : ∀ k, t.cue k = ((s.hear port).configureCue l f).cue k := fun k => by
    rw [hte]
    rfl
  refine ⟨t, congrArg Host.Outcome.next hx, ?_, ?_, ?_, fun k hk => ?_, fun p => ?_⟩
  · rw [hw, width_clamped] at ha
    simpa only [Bool.not_eq_true', decide_eq_false_iff_not, ite_not] using ha
  · rw [hte, State.configureCue_frame]
    rfl
  · rw [hcue, State.cue_configureCue, if_pos rfl]
  · rw [hcue, State.cue_configureCue, if_neg hk, State.cue_hear]
  · rw [hte]
    exact (s.hear port).prog_configureCue l f p

end Sys2Proof.Machine

/-! PROOFS. CUE_LINE_SAMPLE: what one sampling instant makes of every line, and runs of samples (R145, R146). -/

namespace Sys2Proof.Machine

/-! ### A qualified transition as the lines see it -/

/-- Between `s` and `t` neither the hold nor the queue has changed, and every line has become that of `c`. -/
structure State.CuesBecome (s t : State) (c : CueLine → CueState) : Prop where
  held : t.held = s.held
  pending : t.pending = s.pending
  cue : ∀ k, t.cue k = c k

section Qualified
variable (s : State) (l : CueLine)

/-- An assertion does to the lines what its flag does, with or without a completion due before it (R147). -/
theorem State.assertCue_becomes : s.CuesBecome (s.assertCue l) (s.flagCue l true).cue := by
  have ho := audioOp_complete (s.cue l).config.programme
  rw [← State.assertCue_complete, State.assertCue_frame (State.due_completed s l)]
  refine ⟨ho.held s, ho.pending s, fun k => ?_⟩
  show ((s.complete _).flagCue l true).cue k = _
  rw [← State.complete_flagCue, ho.cue]

/-- A release does to the lines what its flag does (R148). -/
theorem State.releaseCue_becomes : s.CuesBecome (s.releaseCue l) (s.flagCue l false).cue := by
  have ho := audioOp_complete (s.cue l).config.programme
  rw [← State.releaseCue_complete, State.releaseCue_frame (State.due_completed s l)]
  refine ⟨ho.held s, ho.pending s, fun k => ?_⟩
  show ((s.complete _).flagCue l false).cue k = _
  rw [← State.complete_flagCue, ho.cue]

theorem State.qualifyCue_becomes : s.CuesBecome (s.qualifyCue l) (s.flagCue l !(s.cue l).asserted).cue := by
  rw [State.qualifyCue]
  cases ha : (s.cue l).asserted with
  | true => exact s.releaseCue_becomes l
  | false => exact s.assertCue_becomes l

end Qualified

/-! ### One sample of one line -/

/-- What a sample makes of its line (R145, R146). -/
def CueState.sampled (c : CueState) (pin : Bool) : CueState :=
  if c.config.enabled = false then c
  else if c.opposite pin = false then { c with run := 0 }
  else if c.wideEnough then { c with asserted := !c.asserted, run := 0 }
  else { c with run := c.run + 1 }

section Sampled
variable {c : CueState} {pin : Bool}

/-- The next sample would not qualify a transition of the line (R145). -/
def CueState.Unripe (c : CueState) (pin : Bool) : Prop :=
  c.config.enabled = true → c.opposite pin = true → c.run < 8 * c.config.width

theorem CueState.wideEnough_eq_false (h : c.run < 8 * c.config.width) : c.wideEnough = false := decide_eq_false (Nat.not_le.2 h)

theorem CueState.sampled_of_unripe (h : c.Unripe pin) : c.sampled pin =
    if c.config.enabled = false then c else if c.opposite pin then { c with run := c.run + 1 } else { c with run := 0 } := by
  cases he : c.config.enabled with
  | false => simp [CueState.sampled, he]
  | true =>
    cases ho : c.opposite pin with
    | false => simp [CueState.sampled, he, ho]
    | true => simp [CueState.sampled, he, ho, CueState.wideEnough_eq_false (h he ho)]

theorem CueState.sampled_count (he : c.config.enabled = true) (ho : c.opposite pin = true) (hr : c.run < 8 * c.config.width) :
    c.sampled pin = { c with run := c.run + 1 } := by simp [CueState.sampled, he, ho, CueState.wideEnough_eq_false hr]

theorem CueState.sampled_qualify (he : c.config.enabled = true) (ho : c.opposite pin = true) (hr : 8 * c.config.width ≤ c.run) :
    c.sampled pin = { c with asserted := !c.asserted, run := 0 } := by simp [CueState.sampled, he, ho, CueState.wideEnough, hr]

end Sampled

section Sample
variable {s : State} {l : CueLine} {pin : Bool}

theorem State.sampleCue_disabled (he : (s.cue l).config.enabled = false) : s.sampleCue l pin = s := if_pos (by simp [he])

theorem State.sampleCue_idle (he : (s.cue l).config.enabled = true) (ho : (s.cue l).opposite pin = false) :
    s.sampleCue l pin = s.onCue l fun c => { c with run := 0 } := by simp [State.sampleCue, he, ho]

theorem State.sampleCue_count (he : (s.cue l).config.enabled = true) (ho : (s.cue l).opposite pin = true)
    (hw : (s.cue l).wideEnough = false) : s.sampleCue l pin = s.onCue l fun c => { c with run := c.run + 1 } := by
  simp [State.sampleCue, he, ho, hw]

theorem State.sampleCue_qualify (he : (s.cue l).config.enabled = true) (ho : (s.cue l).opposite pin = true)
    (hw : (s.cue l).wideEnough = true) : s.sampleCue l pin = s.qualifyCue l := by simp [State.sampleCue, he, ho, hw]

/-- Every form of a sample: its line alone takes it. -/
theorem State.sampleCue_becomes (s : State) (l : CueLine) (pin : Bool) :
    s.CuesBecome (s.sampleCue l pin) fun k => if k = l then (s.cue l).sampled pin else s.cue k := by
  have hline : ∀ f : CueState → CueState, (s.cue l).sampled pin = f (s.cue l) →
      s.CuesBecome (s.onCue l f) fun k => if k = l then (s.cue l).sampled pin else s.cue k := fun f hf =>
    ⟨rfl, rfl, fun k => by
      rw [State.cue_onCue, hf]
      split
      · rename_i e
        rw [e]
      · rfl⟩
  cases he : (s.cue l).config.enabled with
  | false =>
    rw [State.sampleCue_disabled he]
    refine ⟨rfl, rfl, fun k => ?_⟩
    split
    · rename_i e
      simp [CueState.sampled, e, he]
    · rfl
  | true =>
    cases ho : (s.cue l).opposite pin with
    | false => exact State.sampleCue_idle he ho ▸ hline _ (by simp [CueState.sampled, he, ho])
    | true =>
      cases hw : (s.cue l).wideEnough with
      | false => exact State.sampleCue_count he ho hw ▸ hline _ (by simp [CueState.sampled, he, ho, hw])
      | true =>
        obtain ⟨hheld, hpending, hcue⟩ := s.qualifyCue_becomes l
        rw [State.sampleCue_qualify he ho hw]
        refine ⟨hheld, hpending, fun k => ?_⟩
        rw [hcue, State.cue_flagCue]
        simp [CueState.sampled, he, ho, hw]

/-- A sample that qualifies nothing changes the lines alone. -/
theorem State.sampleCue_unripe (h : (s.cue l).Unripe pin) : s.sampleCue l pin = { s with cues := (s.sampleCue l pin).cues } := by
  cases he : (s.cue l).config.enabled with
  | false => rw [State.sampleCue_disabled he]
  | true =>
    cases ho : (s.cue l).opposite pin with
    | false => rw [State.sampleCue_idle he ho]; rfl
    | true => rw [State.sampleCue_count he ho (CueState.wideEnough_eq_false (h he ho))]; rfl

end Sample

/-! ### The samples of one instant -/

/-- The samples of the lines of `ls`, one after the other. -/
def State.sampleLines (pins : BitVec 4) (ls : List CueLine) (s : State) : State :=
  ls.foldl (fun s l => s.sampleCue l (pins.getLsbD l.val)) s

section Instant
variable {pins : BitVec 4} {ls : List CueLine} {s : State}

theorem State.sampleCues_eq (s : State) (pins : BitVec 4) : s.sampleCues pins = s.sampleLines pins allLines := rfl

theorem State.sampleLines_cons (l : CueLine) :
    s.sampleLines pins (l :: ls) = (s.sampleCue l (pins.getLsbD l.val)).sampleLines pins ls := rfl

theorem State.sampleLines_becomes (hls : ls.Nodup) : s.CuesBecome (s.sampleLines pins ls) fun k =>
    if k ∈ ls then (s.cue k).sampled (pins.getLsbD k.val) else s.cue k := by
  induction ls generalizing s with
  | nil => exact ⟨rfl, rfl, fun k => by simp [State.sampleLines]⟩
  | cons l ls ih =>
    obtain ⟨hl, hrest⟩ := List.nodup_cons.1 hls
    obtain ⟨hheld, hpending, hcue⟩ := s.sampleCue_becomes l (pins.getLsbD l.val)
    obtain ⟨hheld', hpending', hcue'⟩ := ih (s := s.sampleCue l (pins.getLsbD l.val)) hrest
    refine ⟨hheld'.trans hheld, hpending'.trans hpending, fun k => ?_⟩
    rw [State.sampleLines_cons, hcue', hcue]
    by_cases hk : k = l
    · simp [hk, hl]
    · simp [hk]

theorem mem_allLines (l : CueLine) : l ∈ allLines := by
  revert l
  decide

/-- One sampling instant: every line takes its sample, whatever the others do (log entry 6). -/
theorem State.sampleCues_becomes (s : State) (pins : BitVec 4) :
    s.CuesBecome (s.sampleCues pins) fun k => (s.cue k).sampled (pins.getLsbD k.val) := by
  obtain ⟨hheld, hpending, hcue⟩ := State.sampleLines_becomes (s := s) (pins := pins) (ls := allLines) (by decide)
  exact ⟨hheld, hpending, fun k => (hcue k).trans (if_pos (mem_allLines k))⟩

theorem State.sampleLines_unripe (hls : ls.Nodup) (h : ∀ l ∈ ls, (s.cue l).Unripe (pins.getLsbD l.val)) :
    s.sampleLines pins ls = { s with cues := (s.sampleLines pins ls).cues } := by
  induction ls generalizing s with
  | nil => rfl
  | cons l ls ih =>
    obtain ⟨hl, hrest⟩ := List.nodup_cons.1 hls
    have hfirst := State.sampleCue_unripe (h l List.mem_cons_self)
    have hlater : ∀ k ∈ ls, ((s.sampleCue l (pins.getLsbD l.val)).cue k).Unripe (pins.getLsbD k.val) := fun k hk => by
      have hne : k ≠ l := ne_of_mem_of_not_mem hk hl
      rw [(s.sampleCue_becomes l _).cue, if_neg hne]
      exact h k (List.mem_cons_of_mem l hk)
    rw [State.sampleLines_cons, ih hrest hlater, hfirst]

theorem State.sampleLines_disabled (h : ∀ l ∈ ls, (s.cue l).config.enabled = false) : s.sampleLines pins ls = s := by
  induction ls generalizing s with
  | nil => rfl
  | cons l ls ih =>
    rw [State.sampleLines_cons, State.sampleCue_disabled (h l List.mem_cons_self)]
    exact ih fun k hk => h k (List.mem_cons_of_mem l hk)

/-- Where one line alone is enabled, a sampling instant is its sample. -/
theorem State.sampleCues_alone {l : CueLine} (h : ∀ k, k ≠ l → (s.cue k).config.enabled = false) :
    s.sampleCues pins = s.sampleCue l (pins.getLsbD l.val) := by
  obtain ⟨before, after, hsplit⟩ := List.append_of_mem (mem_allLines l)
  have hnodup : (before ++ l :: after).Nodup := hsplit ▸ (by decide : allLines.Nodup)
  have hl : l ∉ before ++ after := (List.nodup_cons.1 (List.nodup_middle.1 hnodup)).1
  have hbefore : s.sampleLines pins before = s := State.sampleLines_disabled fun k hk =>
    h k fun e => hl (e ▸ List.mem_append_left _ hk)
  have hafter : (s.sampleCue l (pins.getLsbD l.val)).sampleLines pins after = s.sampleCue l (pins.getLsbD l.val) :=
    State.sampleLines_disabled fun k hk => by
      have hk : k ≠ l := fun e => hl (e ▸ List.mem_append_right _ hk)
      rw [(s.sampleCue_becomes l _).cue, if_neg hk]
      exact h k hk
  calc s.sampleCues pins = (s.sampleLines pins before).sampleLines pins (l :: after) := by
        rw [State.sampleCues_eq, hsplit]
        exact List.foldl_append
    _ = s.sampleCue l (pins.getLsbD l.val) := by rw [hbefore, State.sampleLines_cons, hafter]

end Instant

/-! ### The command, and runs of it -/

theorem exec_cueLineSample {s : State} (hh : s.held = false) (pins : BitVec 4) :
    exec (.cueLineSample pins) s = .next ((s.sampleCues pins).followFrom s) :=
  congrArg Host.Outcome.next (if_neg (by simp [hh]))

/-- What a sampling instant leaves of the hold, the queue and the lines. -/
theorem exec_cueLineSample_becomes {s : State} (hh : s.held = false) (pins : BitVec 4) :
    ∃ t, exec (.cueLineSample pins) s = .next t ∧ s.CuesBecome t fun k => (s.cue k).sampled (pins.getLsbD k.val) := by
  obtain ⟨hheld, hpending, hcue⟩ := s.sampleCues_becomes pins
  exact ⟨_, exec_cueLineSample hh pins, (State.followFrom_held _ s).trans hheld, (State.followFrom_pending _ s).trans hpending,
    fun k => (State.cue_followFrom _ s k).trans (hcue k)⟩

section Runs
variable {s : State} {l : CueLine} {pins : BitVec 4}

/-- A sampling instant at the front of the queue. -/
theorem step_cueLineSample {m : Nat} (hh : s.held = false) (hq : s.pending = List.replicate (m + 1) (.cueLineSample pins)) :
    ∃ t, step s = .next t ∧ t.held = false ∧ t.pending = List.replicate m (.cueLineSample pins) ∧
      ∀ k, t.cue k = (s.cue k).sampled (pins.getLsbD k.val) := by
  obtain ⟨t, hx, hheld, hpending, hcue⟩ :=
    exec_cueLineSample_becomes (s := { s with pending := List.replicate m (.cueLineSample pins) }) hh pins
  exact ⟨t, (step_cons hq).trans hx, hheld.trans hh, hpending, hcue⟩

/-- Up to the width, each sample of a run at the opposite level counts it on by one (R145). -/
theorem run_samples {n : Nat} (hh : s.held = false) (he : (s.cue l).config.enabled = true)
    (ho : (s.cue l).opposite (pins.getLsbD l.val) = true) (hr : (s.cue l).run = 0)
    (hq : s.pending = List.replicate n (.cueLineSample pins)) :
    ∀ k, k ≤ 8 * (s.cue l).config.width → k ≤ n → ∃ t, run k s = .next t ∧ t.held = false ∧
      t.pending = List.replicate (n - k) (.cueLineSample pins) ∧ t.cue l = { s.cue l with run := k } := by
  intro k
  induction k with
  | zero => exact fun _ _ => ⟨s, rfl, hh, hq, hr ▸ rfl⟩
  | succ k ih =>
    intro hw hn
    obtain ⟨t, ht, htheld, htq, htcue⟩ := ih (Nat.le_of_succ_le hw) (Nat.le_of_succ_le hn)
    have hleft : n - k = n - (k + 1) + 1 := by omega
    obtain ⟨u, hu, huheld, huq, hucue⟩ := step_cueLineSample htheld (hleft ▸ htq)
    refine ⟨u, (run_add (k := 1) ht).trans ((run_one t).trans hu), huheld, huq, ?_⟩
    rw [hucue, htcue]
    exact CueState.sampled_count he ho hw

end Runs

/-- Settles O52: a sampling instant line by line, the run up to its width and its next sample, and the one line enabled. -/
theorem samplesQualifyAfterTheWidth : Obligations.SamplesQualifyAfterTheWidth := by
  refine ⟨fun s pins hh hw => ?_, fun s l pins hh he ho hr hq => ?_, fun s l pins hh he halone ho hw => ?_⟩
  · have hunripe : ∀ l, (s.cue l).Unripe (pins.getLsbD l.val) := hw
    have hframe : s.sampleCues pins = { s with cues := (s.sampleCues pins).cues } :=
      State.sampleLines_unripe (by decide) fun l _ => hunripe l
    refine ⟨_, exec_cueLineSample hh pins, ?_, State.noticesFollow_quiet fun q => ?_, fun l => ?_⟩
    · rw [hframe]
      rfl
    · rw [hframe]
      rfl
    · rw [State.cue_followFrom, (s.sampleCues_becomes pins).cue]
      exact CueState.sampled_of_unripe (hunripe l)
  · have hrun := run_samples hh he ho hr hq
    refine ⟨fun k hk => ?_, ?_⟩
    · obtain ⟨t, ht, -, -, hcue⟩ := hrun k hk (Nat.le_succ_of_le hk)
      exact ⟨t, ht, hcue⟩
    · obtain ⟨t, ht, hheld, hpending, hcue⟩ := hrun _ le_rfl (Nat.le_succ _)
      rw [Nat.add_sub_cancel_left] at hpending
      obtain ⟨u, hu, -, -, hucue⟩ := step_cueLineSample (m := 0) hheld hpending
      refine ⟨u, (run_add (k := 1) ht).trans ((run_one t).trans hu), ?_⟩
      rw [hucue, hcue]
      exact CueState.sampled_qualify he ho le_rfl
  · have hready : s.CueReady l := ⟨hh, he, hw⟩
    have hsample : s.sampleCues pins = s.qualifyCue l :=
      (State.sampleCues_alone halone).trans (State.sampleCue_qualify he ho (decide_eq_true hw))
    rw [exec_cueLineSample hh, hsample, State.qualifyCue]
    cases ha : (s.cue l).asserted with
    | true => exact (exec_cueRelease hready ha).symm
    | false => exact (exec_cueAssertion hready ha).symm

end Sys2Proof.Machine

/-! PROOFS. The operations that leave the claims and the ports as they are, and every request but CLAIM and RELEASE among them (R157). -/

namespace Sys2Proof.Machine

/-! ### Operations of the audio side -/

theorem AudioOp.claims {g : State → State} (h : AudioOp g) (s : State) : (g s).claims = s.claims := by
  obtain ⟨a, ha⟩ := h s
  rw [ha.frame]
  rfl

/-- An operation of the audio side, with the SETTLED_CHANGE of `p` that it makes (R99, R100). -/
theorem AudioOp.fireSettled {g : State → State} (hg : AudioOp g) (p : Prog) : AudioOp fun u => (g u).fireSettled u p := fun s => by
  obtain ⟨a, ha⟩ := hg s
  refine ⟨a ||| Source.settledChange.bitIf (((g s).prog p).settled != (s.prog p).settled), fun o => ?_⟩
  simp only [State.fireSettled, State.fireIf_eq_fireSet, ha o, State.prog_within, State.within_fireSet, State.fireSet_within,
    State.fireSet_fireSet]

/-- Every change of a mode is an operation of the audio side (R10 to R14). -/
theorem audioOp_changeMode (p : Prog) (m : Mode) : AudioOp (State.changeMode · p m) := fun s => by
  have settled : ∀ g : State → State, AudioOp g →
      (∀ o, (s.within o).changeMode p m = (g (s.within o)).fireSettled (s.within o) p) → ∃ a, s.Fires (State.changeMode · p m) a :=
    fun _ hg he => (hg.fireSettled p s).imp fun _ ha => ha.of_eq he
  by_cases hsame : (s.prog p).mode = m
  · exact ⟨0, .quiet fun o => by rw [State.changeMode_same (s := s.within o) hsame, State.changeMode_same hsame]⟩
  cases m with
  | off =>
    exact settled (State.onProg · p Programme.enterOff) (audioOp_onProg p _) fun o => State.changeMode_off (s := s.within o) hsame
  | measure => cases hm : (s.prog p).mode with
    | off =>
      exact settled (State.onProg · p (Programme.leaveOff s.clockLost .measure)) (audioOp_onProg p _) fun o =>
        State.changeMode_off_measure (s := s.within o) hm
    | measure => exact absurd hm hsame
    | active =>
      exact settled (State.onProg · p Programme.toMeasure) (audioOp_onProg p _) fun o =>
        State.changeMode_active_measure (s := s.within o) hm
  | active => cases hm : (s.prog p).mode with
    | off =>
      exact settled
        (fun u => ((u.onProg p (Programme.leaveOff s.clockLost .active)).joinGroup p).onProg p Programme.settleFactor)
        (((audioOp_onProg p _).comp (audioOp_joinGroup p)).comp (audioOp_onProg p _)) fun o =>
        State.changeMode_off_active (s := s.within o) hm
    | measure =>
      exact settled (fun u => (u.onProg p Programme.toActive).joinGroup p)
        ((audioOp_onProg p _).comp (audioOp_joinGroup p)) fun o => State.changeMode_measure_active (s := s.within o) hm
    | active => exact absurd hm hsame

theorem audioOp_resetProgramme (p : Prog) : AudioOp (State.resetProgramme · p) :=
  (audioOp_complete p).comp fun s => ⟨_, s.fires_clearProgramme p⟩

theorem audioOp_storeSlot (p : Prog) (i : Slot) (f : Profile) : AudioOp (State.storeSlot · p i f) := fun s =>
  ⟨0, s.fires_storeSlot p i f⟩

theorem audioOp_setLink (k : LinkFlag) (b : Bool) : AudioOp (State.setLink · k b) := .quiet fun s o => s.setLink_within o k b

/-! ### Claims and ports left alone -/

/-- Between `s` and `t` no claim and no port has changed. -/
structure State.SameStations (s t : State) : Prop where
  claims : t.claims = s.claims
  ports : t.ports = s.ports

namespace State.SameStations

theorem refl (s : State) : s.SameStations s := ⟨rfl, rfl⟩

theorem trans {s t u : State} (h : s.SameStations t) (k : t.SameStations u) : s.SameStations u :=
  ⟨k.claims.trans h.claims, k.ports.trans h.ports⟩

theorem audio {g : State → State} (hg : AudioOp g) (s : State) : s.SameStations (g s) := ⟨hg.claims s, hg.ports s⟩

/-! ### The cue unit -/

theorem assertCue (s : State) (l : CueLine) : s.SameStations (s.assertCue l) := by
  rw [← State.assertCue_complete, State.assertCue_frame (State.due_completed s l)]
  exact ⟨(audioOp_complete _).claims s, (audioOp_complete _).ports s⟩

theorem releaseCue (s : State) (l : CueLine) : s.SameStations (s.releaseCue l) := by
  rw [← State.releaseCue_complete, State.releaseCue_frame (State.due_completed s l)]
  exact ⟨(audioOp_complete _).claims s, (audioOp_complete _).ports s⟩

theorem sampleCue (s : State) (l : CueLine) (pin : Bool) : s.SameStations (s.sampleCue l pin) := by
  unfold State.sampleCue
  dsimp only
  split
  · exact refl s
  split
  · exact ⟨rfl, rfl⟩
  split
  · unfold State.qualifyCue
    split
    · exact releaseCue s l
    · exact assertCue s l
  · exact ⟨rfl, rfl⟩

theorem sampleCues (s : State) (pins : BitVec 4) : s.SameStations (s.sampleCues pins) := by
  rw [State.sampleCues_eq]
  generalize allLines = ls
  induction ls generalizing s with
  | nil => exact refl s
  | cons l ls ih => exact (sampleCue s l _).trans (ih _)

theorem configureCue (s : State) (l : CueLine) (f : CueConfig) : s.SameStations (s.configureCue l f) := by
  rw [State.configureCue_frame]
  exact ⟨rfl, rfl⟩

end State.SameStations

/-! ### The requests that leave them -/

/-- A request served so changes no claim and no port. -/
def Serve.LeavesStations (serve : Serve) : Prop :=
  ∀ port target payload s, State.SameStations s (serve port target payload s).state

namespace Serve.LeavesStations

theorem of_read {serve : Serve} (hr : ∀ port target payload (s : State), (serve port target payload s).state = s) :
    serve.LeavesStations := fun port target payload s => by
  rw [hr]
  exact .refl s

/-- A request whose effect is an operation of the audio side, with the claim on the programme of its TARGET. -/
theorem of_audio {n : Nat} {g : Prog → List Byte → State → State} {k : State → Prog → List Byte → Reply} {serve : Serve}
    (hg : ∀ p d, AudioOp (g p d)) (hk : ∀ s p d, (k s p d).state = g p d s)
    (he : ∀ port target payload (s : State), serve port target payload s = needFull port s (needSize n payload s <|
      needBelow 8 target s fun p => needClaim port (progRecord p) s (k s p payload))) : serve.LeavesStations :=
  fun port target payload s => by
  rw [he]
  exact programmeRequest_state (.refl s) fun p => hk s p payload ▸ .audio (hg p payload) s

theorem setMode : Serve.LeavesStations serveSetMode := fun _ _ _ s =>
  needFull_state (.refl s) (needSize_state (.refl s) (needBelow_state (.refl s) fun p => needValue_state (.refl s) fun m =>
    needClaim_state (.refl s) (.audio (audioOp_changeMode p m) s)))

theorem writeProfile : Serve.LeavesStations serveWriteProfile := fun _ _ _ s =>
  needFull_state (.refl s) (by
    split
    · exact .refl s
    · exact needBelow_state (.refl s) fun p => needBelow_state (.refl s) fun i => needValue_state (.refl s) fun _ =>
        needClaim_state (.refl s) (needIdleSlot_state (.refl s) (.audio (audioOp_storeSlot p i _) s)))

theorem copyProfile : Serve.LeavesStations serveCopyProfile := fun _ _ _ s =>
  needFull_state (.refl s) (needSize_state (.refl s) (needBelow_state (.refl s) fun p => needBelow_state (.refl s) fun i =>
    needBelow_state (.refl s) fun _ => needBelow_state (.refl s) fun _ => by
      split
      · exact .refl s
      · exact needClaim_state (.refl s) (needIdleSlot_state (.refl s) (.audio (audioOp_storeSlot p i _) s))))

theorem setTrim : Serve.LeavesStations serveSetTrim :=
  of_audio (g := fun p d => (State.onProg · p fun P => { P with trim := limit (-1200) 1200 (word16At d 0).toInt }))
    (fun _ _ => audioOp_onProg _ _) (fun _ _ _ => rfl) fun _ _ _ _ => rfl

theorem setSchedule : Serve.LeavesStations serveSetSchedule := fun _ _ _ s =>
  needFull_state (.refl s) (needSize_state (.refl s) (needBelow_state (.refl s) fun _ => needValue_state (.refl s) fun _ =>
    needClaim_state (.refl s) ⟨rfl, rfl⟩))

theorem forceSlot : Serve.LeavesStations serveForceSlot := fun _ _ _ s =>
  needFull_state (.refl s) (needSize_state (.refl s) (needBelow_state (.refl s) fun p => needBelow_state (.refl s) fun _ =>
    needClaim_state (.refl s) (by
      dsimp only [done]
      split
      · exact .refl s
      · exact .audio (audioOp_switchSlot p) s)))

theorem setCount : Serve.LeavesStations serveSetCount :=
  of_audio (g := fun p d => (State.onProg · p fun P => { P with front := { P.front with counter := word32At d 0 } }))
    (fun _ _ => audioOp_onProg _ _) (fun _ _ _ => rfl) fun _ _ _ _ => rfl

theorem restartSegment : Serve.LeavesStations serveRestartSegment :=
  of_audio (g := fun p _ => (State.onProg · p Programme.restartSegment))
    (fun _ _ => audioOp_onProg _ _) (fun _ _ _ => rfl) fun _ _ _ _ => rfl

theorem pause : Serve.LeavesStations servePause :=
  of_audio (g := fun p _ => (State.onProg · p fun P => { P with requestPause := true }))
    (fun _ _ => audioOp_onProg _ _) (fun _ _ _ => rfl) fun _ _ _ _ => rfl

theorem resume : Serve.LeavesStations serveResume :=
  of_audio (g := fun p _ => (State.onProg · p fun P => { P with requestPause := false }))
    (fun _ _ => audioOp_onProg _ _) (fun _ _ _ => rfl) fun _ _ _ _ => rfl

theorem resetProgramme : Serve.LeavesStations serveResetProgramme :=
  of_audio (g := fun p _ => (State.resetProgramme · p)) (fun p _ => audioOp_resetProgramme p) (fun _ _ _ => rfl) fun _ _ _ _ => rfl

theorem setLink : Serve.LeavesStations serveSetLink := fun _ _ _ s =>
  needFull_state (.refl s) (needSize_state (.refl s) (needBelow_state (.refl s) fun k => needValue_state (.refl s) fun b =>
    needClaim_state (.refl s) (needClaim_state (.refl s) (.audio (audioOp_setLink k b) s))))

theorem loadScanTable : Serve.LeavesStations serveLoadScanTable := fun _ _ _ s =>
  needFull_state (.refl s) (needValue_state (.refl s) fun _ => needClaim_state (.refl s) ⟨rfl, rfl⟩)

theorem setScanPeriod : Serve.LeavesStations serveSetScanPeriod := fun _ _ _ s =>
  needFull_state (.refl s) (needSize_state (.refl s) (needClaim_state (.refl s) ⟨rfl, rfl⟩))

theorem configCue : Serve.LeavesStations serveConfigCue := fun _ _ _ s =>
  needFull_state (.refl s) (needSize_state (.refl s) (needBelow_state (.refl s) fun l => needBelow_state (.refl s) fun _ =>
    needValue_state (.refl s) fun _ => needValue_state (.refl s) fun _ => needValue_state (.refl s) fun _ =>
      needValue_state (.refl s) fun _ => needClaim_state (.refl s) (.configureCue s l _)))

theorem dropCueEntries : Serve.LeavesStations serveDropCueEntries := fun _ _ _ s =>
  needFull_state (.refl s) (needSize_state (.refl s) ⟨rfl, rfl⟩)

theorem resetDevice : Serve.LeavesStations serveResetDevice := fun _ _ _ s =>
  needFull_state (.refl s) (needSize_state (.refl s) (needClaim_state (.refl s) ⟨rfl, rfl⟩))

theorem notice (f : SourceSet → SourceSet → Notice → Notice) : Serve.LeavesStations (serveNotice f) := fun _ _ _ s =>
  needSize_state (.refl s) (needValue_state (.refl s) fun _ => ⟨rfl, rfl⟩)

end Serve.LeavesStations

end Sys2Proof.Machine

/-! PROOFS. Claims are held by FULL and PRESENT stations: through CLAIM, RELEASE and the absence of a station, and through every command and
every step (R157 to R159, R166). -/

namespace Sys2Proof.Machine

/-! ### The holder of a record (R157) -/

section Holder
variable (s : State) (r : ClaimRecord) (h : Option Port)

theorem State.holder_changeHolder (q : ClaimRecord) : (s.changeHolder r h).holder q = if q = r then h else s.holder q := by
  rw [State.changeHolder, State.holder_fire, State.holder_setHolder]

theorem State.notice_changeHolder (q : Port) : (s.changeHolder r h).notice q =
    { s.notice q with pending := (s.notice q).pending ||| ((s.notice q).mask &&& Source.claimChanged.bit) } := by
  rw [State.changeHolder, State.notice_fire, State.notice_setHolder]

theorem State.changeHolder_ports : (s.changeHolder r h).ports = s.ports := rfl

theorem State.changeHolder_frame : s.changeHolder r h =
    { s with claims := (s.changeHolder r h).claims, notices := (s.changeHolder r h).notices } := rfl

end Holder

/-! ### The absence of a station (R166) -/

section Absence
variable {s t : State} {port : Port}

@[simp] theorem State.holder_dropClaims (s : State) (port : Port) (r : ClaimRecord) :
    (s.dropClaims port).holder r = if s.holder r = some port then none else s.holder r := by
  rw [State.dropClaims, State.holder_fireIf]
  simp [State.holder]

@[simp] theorem State.port_dropClaims (s : State) (port q : Port) : (s.dropClaims port).port q = s.port q := by
  rw [State.dropClaims, State.port_fireIf]
  rfl

theorem State.dropClaims_frame (s : State) (port : Port) : s.dropClaims port =
    { s with claims := (s.dropClaims port).claims, notices := (s.dropClaims port).notices } := by
  simp only [State.dropClaims, State.fireIf]
  split <;> rfl

theorem State.any_claims (s : State) (port : Port) :
    (s.claims.toList.any fun h => decide (h = some port)) = true ↔ ∃ r, s.holder r = some port := by
  simp only [List.any_eq_true, Vector.mem_toList_iff, Vector.mem_iff_getElem, decide_eq_true_eq, State.holder]
  constructor
  · rintro ⟨_, ⟨i, hi, rfl⟩, h⟩
    exact ⟨⟨i, hi⟩, h⟩
  · rintro ⟨r, h⟩
    exact ⟨_, ⟨r.val, r.isLt, rfl⟩, h⟩

/-- Between `s` and `t` the station of `port` has gone absent and lost its claims, and all else stands (R166). -/
structure State.Drops (s t : State) (port : Port) : Prop where
  frame : t = { s with ports := t.ports, notices := t.notices, claims := t.claims }
  absent : t.port port = { s.port port with presence := .absent }
  others : ∀ q, q ≠ port → t.port q = s.port q
  holder : ∀ r, t.holder r = if s.holder r = some port then none else s.holder r
  notices : s.NoticesFollow t (Source.claimChanged.bitIf (s.claims.toList.any fun h => decide (h = some port)))

/-- A declaration that nothing has overtaken drops the claims (R166). -/
theorem State.drops_declareAbsent (hh : s.held = false) (hp : (s.port port).isAbsent = false)
    (ho : (s.port port).overtaken = false) : s.Drops (s.declareAbsent port) port := by
  have hd : s.declareAbsent port =
      ((s.onPort port fun P => { P with presence := .absent }).dropClaims port).followFrom s := by
    simp [State.declareAbsent, hh, hp, ho]
  rw [hd]
  refine ⟨?_, by simp, fun q hq => by simp [hq], State.holder_dropClaims _ port, State.noticesFollow_followFrom fun q => ?_⟩
  · rw [State.dropClaims_frame]
    rfl
  · rw [State.dropClaims, State.notice_fireIf]
    rfl

/-- A declaration that a message or a reset has overtaken is spent (R168, log entry 25). -/
theorem State.declareAbsent_spent (hh : s.held = false) (hp : (s.port port).isAbsent = false) (ho : (s.port port).overtaken = true) :
    s.declareAbsent port = s.onPort port fun P => { P with overtaken := false } := by
  simp [State.declareAbsent, hh, hp, ho]

end Absence

/-! ### The invariant -/

namespace State.ClaimsSound
variable {s t : State}

/-- With the same claims, it is enough that the classes stand and that no station has gone absent. -/
theorem of_ports (h : s.ClaimsSound) (hc : t.claims = s.claims) (ha : ∀ p, (t.port p).access = (s.port p).access)
    (hp : ∀ p, (s.port p).isAbsent = false → (t.port p).isAbsent = false) : t.ClaimsSound := fun r p hr => by
  obtain ⟨hfull, hpresent⟩ := h r p (by rwa [State.holder, hc] at hr)
  exact ⟨(ha p).trans hfull, hp p hpresent⟩

theorem of_same (h : s.ClaimsSound) (hs : s.SameStations t) : t.ClaimsSound :=
  have hport : ∀ p, t.port p = s.port p := fun p => by rw [State.port, State.port, hs.ports]
  h.of_ports hs.claims (fun p => by rw [hport]) fun p hp => by rw [hport, hp]

theorem audio (h : s.ClaimsSound) {g : State → State} (hg : AudioOp g) : (g s).ClaimsSound := h.of_same (.audio hg s)

theorem followFrom (h : s.ClaimsSound) (u : State) : (s.followFrom u).ClaimsSound := h.of_same ⟨rfl, rfl⟩

/-- A port rewritten under its class and the presence of its station. -/
theorem onPort (h : s.ClaimsSound) (port : Port) {f : PortState → PortState} (ha : ∀ P, (f P).access = P.access)
    (hp : ∀ P, (f P).presence = P.presence) : (s.onPort port f).ClaimsSound := by
  refine h.of_ports rfl (fun q => ?_) fun q hq => ?_
  all_goals rw [State.port_onPort]; split
  · exact ha _
  · rfl
  · rwa [PortState.isAbsent, hp]
  · exact hq

/-- A free table is sound. -/
theorem of_free (h : ∀ r, t.holder r = none) : t.ClaimsSound := fun r p hr => by simp [h] at hr

/-- A record may be freed, or given to a FULL and PRESENT station (R157). -/
theorem changeHolder (h : s.ClaimsSound) (r : ClaimRecord) {x : Option Port}
    (hx : ∀ p, x = some p → (s.port p).access = .full ∧ (s.port p).isAbsent = false) : (s.changeHolder r x).ClaimsSound := by
  intro q p hq
  rw [State.holder_changeHolder] at hq
  split at hq
  · exact hx p hq
  · exact h q p hq

/-- A station that goes absent loses its claims (R166). -/
theorem drops (h : s.ClaimsSound) {port : Port} (hd : s.Drops t port) : t.ClaimsSound := fun r p hr => by
  rw [hd.holder] at hr
  split at hr
  · cases hr
  · rename_i hne
    have hp : p ≠ port := fun e => hne (e ▸ hr)
    rw [hd.others p hp]
    exact h r p hr

theorem declareAbsent (h : s.ClaimsSound) (port : Port) : (s.declareAbsent port).ClaimsSound := by
  rcases s.declareAbsent_cases port with ⟨-, e⟩ | ⟨-, -, -, e⟩ | ⟨hh, hp, ho, -⟩
  · rwa [e]
  · rw [e]
    exact h.onPort port (fun _ => rfl) fun _ => rfl
  · exact h.drops (State.drops_declareAbsent hh hp ho)

/-! ### The requests -/

/-- Hearing a station makes it present (R165, R167). -/
theorem hear (h : s.ClaimsSound) (port : Port) : (s.hear port).ClaimsSound := by
  refine h.of_ports rfl (s.access_hear port) fun p hp => ?_
  have hne : (s.port p).presence ≠ .absent := fun e => by simp [PortState.isAbsent, e] at hp
  rw [State.isAbsent_hear]
  exact decide_eq_false fun hc => hne hc.2

theorem answer (port : Port) (code target : Byte) {a : Reply} (h : a.state.ClaimsSound) :
    (s.answer port code target a).ClaimsSound :=
  (h.onPort port (f := fun P => { P with serving := some (responseTo code target a) }) (fun _ => rfl) fun _ => rfl).followFrom s

end State.ClaimsSound

/-- A request served so from a PRESENT station keeps the claims sound. -/
def Serve.GuardsClaims (serve : Serve) : Prop := ∀ port target payload (s : State), s.ClaimsSound →
  (s.port port).isAbsent = false → (serve port target payload s).state.ClaimsSound

namespace Serve.GuardsClaims

theorem of_leaves {serve : Serve} (hs : serve.LeavesStations) : serve.GuardsClaims := fun port target payload s h _ =>
  h.of_same (hs port target payload s)

/-- CLAIM gives a free record to its own station, which the check of the class leaves FULL (R158). -/
theorem claim : Serve.GuardsClaims serveClaim := fun port target payload s h hp => by
  rw [serveClaim]
  cases ha : (s.port port).access with
  | readOnly => rwa [needFull_readOnly ha]
  | full =>
    rw [needFull_full ha]
    refine needSize_state h (needBelow_state h fun r => ?_)
    split
    · refine h.changeHolder r fun p he => ?_
      obtain rfl := Option.some.inj he
      exact ⟨ha, hp⟩
    · exact h

theorem release : Serve.GuardsClaims serveRelease := fun _ _ _ _ h _ =>
  needFull_state h (needSize_state h (needBelow_state h fun r => by
    split
    · exact h.changeHolder r nofun
    · exact h))

/-- The service of every row of the table of requests. -/
theorem requestTable : ∀ row ∈ requestTable, Serve.GuardsClaims row.2 := by
  simp only [Machine.requestTable, List.forall_mem_cons]
  exact ⟨of_leaves (.of_read serveReadProgramme_state), of_leaves (.of_read serveReadProfile_state),
    of_leaves (.of_read serveReadHistogram_state), of_leaves (.of_read serveReadCueLog_state),
    of_leaves (.of_read serveReadDevice_state), of_leaves (.of_read serveReadNotices_state), claim, release,
    of_leaves .setMode, of_leaves .writeProfile, of_leaves .copyProfile, of_leaves .setTrim, of_leaves .setSchedule,
    of_leaves .forceSlot, of_leaves .setCount, of_leaves .restartSegment, of_leaves .pause, of_leaves .resume,
    of_leaves .resetProgramme, of_leaves .setLink, of_leaves .loadScanTable, of_leaves .setScanPeriod, of_leaves .configCue,
    of_leaves .dropCueEntries, of_leaves .resetDevice, of_leaves (.notice _), of_leaves (.notice _), of_leaves (.notice _),
    by simp⟩

theorem code (code : Byte) : Serve.GuardsClaims (serveCode code) := by
  unfold serveCode
  cases hf : Machine.requestTable.find? (·.1 = code) with
  | none => exact of_leaves (.of_read fun _ _ _ _ => rfl)
  | some row => exact requestTable row (List.mem_of_find?_eq_some hf)

end Serve.GuardsClaims

namespace State.ClaimsSound
variable {s : State}

/-! ### The ports and the resets -/

/-- A message is served after it is heard, so from a PRESENT station (R165). -/
theorem takeMessage (h : s.ClaimsSound) (port : Port) (code target : Byte) (payload : List Byte) :
    (s.takeMessage port code target payload (serveCode code)).ClaimsSound := by
  rcases s.takeMessage_cases port code target payload (serveCode code) with e | e | ⟨-, -, e⟩ <;> rw [e]
  · exact h
  · exact h.hear port
  · refine answer port code target (Serve.GuardsClaims.code code port target payload _ (h.hear port) ?_)
    rw [State.isAbsent_hear]
    exact decide_eq_false fun hc => hc.1 rfl

theorem receiveByte (h : s.ClaimsSound) (port : Port) (bytes : List Byte) (b : Byte) : (s.receiveByte port bytes b).ClaimsSound := by
  have hreceive : ∀ x, (s.onPort port fun P => { P with receive := x }).ClaimsSound := fun _ =>
    h.onPort port (fun _ => rfl) fun _ => rfl
  unfold State.receiveByte
  split
  · split <;> exact hreceive _
  split
  · split
    · exact h.takeMessage port _ _ _
    · exact hreceive _
  · exact hreceive _

/-- A reset frees every record (R157, R188). -/
theorem resetTo (s : State) (b : Bool) (r : ResetRecord) (a : Port → Access) : (s.resetTo b r a).ClaimsSound :=
  of_free State.holder_reset

/-! ### Every command -/

/-- Every command leaves the claims sound; a request command is the message of its code. -/
theorem exec (h : s.ClaimsSound) (c : Instr) : ∃ t, exec c s = .next t ∧ t.ClaimsSound := by
  have hif : ∀ {c : Prop} [Decidable c] {t : State}, t.ClaimsSound → (if c then t else s).ClaimsSound := fun ht => by
    split
    · exact ht
    · exact h
  have hheld : ∀ {c : Prop} [Decidable c] {t : State}, t.ClaimsSound → (if c then s else t).ClaimsSound := fun ht => by
    split
    · exact h
    · exact ht
  have request : ∀ port code target d, ∃ t,
      Host.Outcome.next (φ := Fault) (ρ := Refusal) (s.takeMessage port code target d (serveCode code)) = .next t ∧ t.ClaimsSound :=
    fun port code target d => ⟨_, rfl, h.takeMessage port code target d⟩
  have hreceive : ∀ port x, (s.onPort port fun P => { P with receive := x }).ClaimsSound := fun port _ =>
    h.onPort port (fun _ => rfl) fun _ => rfl
  cases c with
  | powerOn straps => exact ⟨_, rfl, resetTo _ _ _ _⟩
  | pinReset => exact ⟨_, rfl, hheld (resetTo _ _ _ _)⟩
  | resetEnd =>
    refine ⟨_, rfl, hif (h.of_ports rfl (fun p => ?_) fun p _ => ?_)⟩ <;> simp [State.port, PortState.isAbsent]
  | frameSync =>
    refine ⟨_, rfl, hheld ?_⟩
    split <;> exact h.of_same ⟨rfl, rfl⟩
  | inputFrame slots => exact ⟨_, rfl, hif (((h.audio audioOp_carryOut).audio (audioOp_takeFrame slots)).followFrom s)⟩
  | rampEnd p => exact ⟨_, rfl, hheld (h.audio (audioOp_onProg p _))⟩
  | subblockCompletion p => exact ⟨_, rfl, hheld ((h.audio (audioOp_complete p)).followFrom s)⟩
  | scanTick => exact ⟨_, rfl, hheld ((h.audio audioOp_tick).followFrom s)⟩
  | clockLossDeclaration => exact ⟨_, rfl, hif (((h.audio audioOp_carryOut).audio audioOp_loseClock).followFrom s)⟩
  | returnMeasurementStop =>
    refine ⟨_, rfl, ?_⟩
    split
    · exact h.of_same ⟨rfl, rfl⟩
    · exact h
  | clockReturnDeclaration =>
    refine ⟨_, rfl, ?_⟩
    split
    · exact h.of_same ⟨rfl, rfl⟩
    · exact h
  | cueAssertion l => exact ⟨_, rfl, hif ((h.of_same (.assertCue s l)).followFrom s)⟩
  | cueRelease l => exact ⟨_, rfl, hif ((h.of_same (.releaseCue s l)).followFrom s)⟩
  | cueLineSample pins => exact ⟨_, rfl, hheld ((h.of_same (.sampleCues s pins)).followFrom s)⟩
  | stationAbsence port => exact ⟨_, rfl, h.declareAbsent port⟩
  | interByteTimeout port =>
    refine ⟨_, rfl, ?_⟩
    split
    · exact hreceive port _
    · exact h
  | messageDiscard port cause =>
    refine ⟨_, rfl, ?_⟩
    split
    · exact hif (hreceive port _)
    · exact h
  | servingDiscard port =>
    refine ⟨_, rfl, ?_⟩
    split
    · exact h.hear port
    · exact h
  | responseEnd port =>
    refine ⟨_, rfl, ?_⟩
    split
    · split
      · exact resetTo _ _ _ _
      · exact h.onPort port (fun _ => rfl) fun _ => rfl
    · exact h
  | requestedReset =>
    refine ⟨_, rfl, ?_⟩
    split
    · exact resetTo _ _ _ _
    · exact h
  | byteReceived port b =>
    refine ⟨_, rfl, hheld ?_⟩
    split
    · exact hif (hreceive port _)
    · exact h.receiveByte port _ b
  | _ => exact request _ _ _ _

/-- The silence timers run down, and no station goes absent before its expiry is taken (R165, R166). -/
theorem cycle (h : s.ClaimsSound) : s.cycle.ClaimsSound := by
  refine h.of_ports rfl (fun p => by rw [State.port_cycle]; rfl) fun p hp => ?_
  rw [State.port_cycle]
  cases hpres : (s.port p).presence with
  | present n => rw [PortState.isAbsent, (s.port p).cycle_presence.1 n hpres]
  | absent => simp [PortState.isAbsent, hpres] at hp

theorem idle (h : s.ClaimsSound) : s.idle.ClaimsSound := by
  unfold State.idle
  split
  · exact h
  · split
    · exact h.cycle
    · exact h.of_same ⟨rfl, rfl⟩

end State.ClaimsSound

/-- Settles O57: the front command keeps the claims sound, and so does an idle cycle. -/
theorem stepKeepsTheClaims : Obligations.StepKeepsTheClaims := by
  intro s t h ht
  cases hq : s.pending with
  | nil =>
    rw [step_nil hq] at ht
    obtain rfl := Host.Outcome.next.inj ht
    exact h.idle
  | cons c rest =>
    rw [step_cons hq] at ht
    obtain ⟨u, hu, hs⟩ := State.ClaimsSound.exec (s := { s with pending := rest }) (h.of_same ⟨rfl, rfl⟩) c
    obtain rfl := Host.Outcome.next.inj (hu.symm.trans ht)
    exact hs

end Sys2Proof.Machine

/-! PROOFS. Requests that are refused for their port's class, discarded while it is SERVING, or refused for want of a claim (R161 to R163,
R165, R176). -/

namespace Sys2Proof.Machine

/-! ### Commands and codes (section 10.9) -/

/-- Each request's command is a message of its code. -/
theorem commands_serve : ∀ r ∈ changeCommands ++ openCommands, Serves (serveCode r.1) r.1 r.2 := by
  simp only [changeCommands, openCommands, List.cons_append, List.nil_append, List.forall_mem_cons, List.not_mem_nil, IsEmpty.forall_iff, implies_true, and_true]
  constructorm* _ ∧ _ <;> exact fun _ _ _ _ => rfl

/-- A service that looks at the class of its port before anything else (R161). -/
def Serve.ChecksClass (serve : Serve) : Prop := ∀ port target payload s, ∃ k, serve port target payload s = needFull port s k

/-- So does every request that changes anything. -/
theorem changeCommands_checkClass : ∀ r ∈ changeCommands, (serveCode r.1).ChecksClass := by
  simp only [changeCommands, List.forall_mem_cons, List.not_mem_nil, IsEmpty.forall_iff, implies_true, and_true]
  constructorm* _ ∧ _ <;> exact fun _ _ _ _ => ⟨_, rfl⟩

/-- Settles O28: the check of the class comes first. -/
theorem readOnlyPortIsRefused : Obligations.ReadOnlyPortIsRefused := by
  intro r hr s port target payload h ha hp
  obtain ⟨k, hk⟩ := changeCommands_checkClass r hr port target payload (s.hear port)
  exact (commands_serve r (List.mem_append_left _ hr)).refuses h hp
    (hk.trans (needFull_readOnly ((s.access_hear port port).trans ha) k))

/-! ### A SERVING port (R165, R176) -/

theorem exec_servingDiscard {s : State} {port : Port} {m : List Byte} (hh : s.held = false) (hm : (s.port port).serving = some m) :
    exec (.servingDiscard port) s = .next (s.hear port) := by
  show Host.Outcome.next _ = _
  simp only [hh, hm]

/-- Any message that completes while the port is SERVING is only heard. -/
theorem Serves.discarded {serve : Serve} {code : Byte} {c : RequestCommand} (hc : Serves serve code c) {s : State} {port : Port}
    {m : List Byte} (hh : s.held = false) (hm : (s.port port).serving = some m) (target : Byte) {payload : List Byte}
    (hp : payload.length ≤ 48) : exec (c port target payload) s = exec (.servingDiscard port) s := by
  rw [hc, State.takeMessage_serving code target serve hh hm hp, exec_servingDiscard hh hm]

theorem State.heard_hear {s : State} {port : Port} {x : Option (List Byte)} (hx : (s.port port).serving = x) :
    s.Heard (s.hear port) port x := by
  refine ⟨?_, fun q hq => ?_⟩
  · rw [State.port_hear, if_pos rfl, ← hx]
    rfl
  · rw [State.port_hear, if_neg hq]

/-- Settles O32: each of the commands only hears the message. -/
theorem servingPortDiscards : Obligations.ServingPortDiscards := by
  intro s port m hh hm
  have unknown : ∀ code, Serves (serveCode code) code (Instr.unknownRequest · code · ·) := fun _ _ _ _ _ => rfl
  refine ⟨⟨_, exec_servingDiscard hh hm, State.heard_hear hm, State.noticesFollow_quiet fun _ => rfl, rfl⟩, fun r hr target payload hp => ?_,
    fun code target payload hp => ?_⟩
  · exact (commands_serve r hr).discarded hh hm target hp
  · exact (unknown code).discarded hh hm target hp

end Sys2Proof.Machine

/-! PROOFS. Well-formed requests that need a claim, up to the check of the claim (R162, R163, R179). -/

namespace Sys2Proof.Machine

/-! ### The names carried as one byte (R180) -/

theorem boolOf_of_lt {b : Byte} (h : b.toNat < 2) : ∃ x, boolOf b = some x := by
  obtain rfl | rfl : b = 0 ∨ b = 1 := by bv_omega
  exacts [⟨_, rfl⟩, ⟨_, rfl⟩]

theorem modeOf_of_lt {b : Byte} (h : b.toNat < 3) : ∃ m, modeOf b = some m := by
  obtain rfl | rfl | rfl : b = 0 ∨ b = 1 ∨ b = 2 := by bv_omega
  exacts [⟨_, rfl⟩, ⟨_, rfl⟩, ⟨_, rfl⟩]

theorem polarityOf_of_lt {b : Byte} (h : b.toNat < 2) : ∃ x, polarityOf b = some x := by
  obtain rfl | rfl : b = 0 ∨ b = 1 := by bv_omega
  exacts [⟨_, rfl⟩, ⟨_, rfl⟩]

theorem actionOf_of_lt {b : Byte} (h : b.toNat < 4) : ∃ a, actionOf b = some a := by
  obtain rfl | rfl | rfl | rfl : b = 0 ∨ b = 1 ∨ b = 2 ∨ b = 3 := by bv_omega
  exacts [⟨_, rfl⟩, ⟨_, rfl⟩, ⟨_, rfl⟩, ⟨_, rfl⟩]

/-! ### The check of the claim (R162) -/

/-- The reply `a` to a request of `port` checks the claim on `r` and nothing before it. -/
def ChecksClaim (port : Port) (r : ClaimRecord) (s : State) (a : Reply) : Prop := ∃ k, a = needClaim port r s k

/-- A request whose service leaves the state is answered so, with its payload, and nothing else changes. -/
theorem Serves.refuses_payload {serve : Serve} {code target : Byte} {c : RequestCommand} (hc : Serves serve code c) {s : State}
    {port : Port} {payload bytes : List Byte} {r : Result} (h : s.Ready port) (hp : payload.length ≤ 48)
    (hs : serve port target payload (s.hear port) = { state := s.hear port, result := r, payload := bytes }) :
    ∃ t, exec (c port target payload) s = .next t ∧ s.Refuses t port code target r bytes :=
  (hc.reads h hp hs).imp fun _ ⟨hx, hr, _⟩ => ⟨hx, hr⟩

/-- A request that reaches the check of a claim that its station does not hold is refused with the holder. -/
theorem Serves.unclaimed {serve : Serve} {code : Byte} {c : RequestCommand} (hc : Serves serve code c) {s : State} {port : Port}
    {r : ClaimRecord} {target : Byte} {payload : List Byte} (h : s.Ready port) (hp : payload.length ≤ 48)
    (hs : ChecksClaim port r (s.hear port) (serve port target payload (s.hear port))) (hr : s.holder r ≠ some port) :
    ∃ t, exec (c port target payload) s = .next t ∧ s.Refuses t port code target .notClaimed [stationByte (s.holder r)] := by
  obtain ⟨k, hk⟩ := hs
  exact hc.refuses_payload h hp (hk.trans (needClaim_not (s := s.hear port) hr k))

/-- Requests of the form `f` are served by `serve`, and a well-formed one of a FULL port, with a TARGET that names the record, reaches the
check of the claim on it. -/
structure Claimed.ServedBy (f : Claimed) (serve : Serve) (names : Byte → ClaimRecord → Prop) : Prop where
  serves : Serves serve f.code f.command
  short : ∀ d, f.wellFormed d = true → d.length ≤ 48
  checks : ∀ {port target d s r}, (State.port s port).access = .full → names target r → f.wellFormed d = true →
    ChecksClaim port r s (serve port target d s)

/-- What a well-formed request of the form leaves where its claim is not held. -/
theorem Claimed.ServedBy.unclaimed {f : Claimed} {serve : Serve} {names : Byte → ClaimRecord → Prop} (hf : f.ServedBy serve names)
    {s : State} {port : Port} {r : ClaimRecord} {target : Byte} {d : List Byte} (h : s.ReadyFull port) (ht : names target r)
    (hd : f.wellFormed d = true) (hr : s.holder r ≠ some port) :
    ∃ t, exec (f.command port target d) s = .next t ∧ s.Refuses t port f.code target .notClaimed [stationByte (s.holder r)] :=
  hf.serves.unclaimed h.1 (hf.short d hd) (hf.checks ((s.access_hear port port).trans h.2) ht hd) hr

/-! ### Requests on a programme -/

/-- The TARGET names a programme (R157, R180). -/
def NamesProgramme (b : Byte) (r : ClaimRecord) : Prop := ∃ p : Prog, b.toNat = p.val ∧ r = progRecord p

/-- A request that checks its size and its TARGET, and then `k`. -/
theorem Claimed.ServedBy.of_programme {f : Claimed} {serve : Serve} {n : Nat} {k : Port → Prog → List Byte → State → Reply}
    (hs : Serves serve f.code f.command) (hn : n ≤ 48)
    (he : ∀ port target d s, serve port target d s =
      needFull port s (needSize n d s (needBelow 8 target s fun p => k port p d s)))
    (hk : ∀ {port p d s}, f.wellFormed d = true → d.length = n ∧ ChecksClaim port (progRecord p) s (k port p d s)) :
    f.ServedBy serve NamesProgramme where
  serves := hs
  short d hd := (hk (port := 0) (p := 0) (s := .reset) hd).1.le.trans hn
  checks := by
    rintro port target d s _ ha ⟨p, ht, rfl⟩ hd
    obtain ⟨hlen, hclaim⟩ := hk (port := port) (p := p) (s := s) hd
    rwa [he, needFull_full ha, needSize_eq hlen, needBelow_eq ht]

theorem programmeForms_served : ∀ f ∈ programmeForms, ∃ serve, f.ServedBy serve NamesProgramme := by
  simp only [programmeForms, List.forall_mem_cons, List.not_mem_nil, IsEmpty.forall_iff, implies_true, and_true]
  refine
    ⟨⟨serveSetMode, .of_programme (fun _ _ _ _ => rfl) (by decide) (fun _ _ _ _ => rfl) fun h => ?setMode⟩,
     ⟨serveSetTrim, .of_programme (fun _ _ _ _ => rfl) (by decide) (fun _ _ _ _ => rfl) fun h => ⟨of_decide_eq_true h, _, rfl⟩⟩,
     ⟨serveSetSchedule, .of_programme (fun _ _ _ _ => rfl) (by decide) (fun _ _ _ _ => rfl) fun h => ?setSchedule⟩,
     ⟨serveForceSlot, .of_programme (fun _ _ _ _ => rfl) (by decide) (fun _ _ _ _ => rfl) fun h => ?forceSlot⟩,
     ⟨serveSetCount, .of_programme (fun _ _ _ _ => rfl) (by decide) (fun _ _ _ _ => rfl) fun h => ⟨of_decide_eq_true h, _, rfl⟩⟩,
     ⟨serveRestartSegment, .of_programme (fun _ _ _ _ => rfl) (by decide) (fun _ _ _ _ => rfl) fun h => ?_⟩,
     ⟨servePause, .of_programme (fun _ _ _ _ => rfl) (by decide) (fun _ _ _ _ => rfl) fun h => ?_⟩,
     ⟨serveResume, .of_programme (fun _ _ _ _ => rfl) (by decide) (fun _ _ _ _ => rfl) fun h => ?_⟩,
     ⟨serveResetProgramme, .of_programme (fun _ _ _ _ => rfl) (by decide) (fun _ _ _ _ => rfl) fun h => ?_⟩⟩
  all_goals simp only [Bool.and_eq_true, decide_eq_true_eq] at h
  case setMode =>
    obtain ⟨m, hm⟩ := modeOf_of_lt (Nat.lt_succ_of_le h.2)
    exact ⟨h.1, _, needValue_some hm _ _⟩
  case setSchedule =>
    obtain ⟨x, hx⟩ := boolOf_of_lt (Nat.lt_succ_of_le h.2)
    exact ⟨h.1, _, needValue_some hx _ _⟩
  case forceSlot => exact ⟨h.1, _, needBelow_lt (Nat.lt_succ_of_le h.2) _ _⟩
  all_goals exact ⟨List.length_eq_zero_iff.2 h, _, rfl⟩

/-! ### Requests on the device -/

/-- A TARGET below `n` stands for the device (R162). -/
def NamesDevice (n : Nat) (b : Byte) (r : ClaimRecord) : Prop := b.toNat < n ∧ r = deviceRecord

theorem length_of_scanPayloadOk {d : List Byte} (h : scanPayloadOk d = true) : d.length ≤ 48 := by
  simp only [scanPayloadOk, Bool.and_eq_true, decide_eq_true_eq] at h
  exact h.1.1.1

theorem serveLoadScanTable_checks : Claimed.ServedBy ⟨0x30, .loadScanTable, scanPayloadOk⟩ serveLoadScanTable (NamesDevice 256) where
  serves _ _ _ _ := rfl
  short _ hd := length_of_scanPayloadOk hd
  checks := by
    rintro port target d s _ ha ⟨-, rfl⟩ hd
    obtain ⟨entries, he⟩ := Option.isSome_iff_exists.1 ((scanTableOf_isSome (length_of_scanPayloadOk hd)).trans hd)
    exact ⟨_, by rw [serveLoadScanTable, needFull_full ha, needValue_some he]⟩

theorem serveConfigCue_checks : Claimed.ServedBy ⟨0x32, .configCue, cuePayloadOk⟩ serveConfigCue (NamesDevice 4) where
  serves _ _ _ _ := rfl
  short d hd := by
    simp only [cuePayloadOk, Bool.and_eq_true, decide_eq_true_eq] at hd
    omega
  checks := by
    rintro port target d s _ ha ⟨ht, rfl⟩ hd
    simp only [cuePayloadOk, Bool.and_eq_true, decide_eq_true_eq] at hd
    obtain ⟨⟨⟨⟨⟨hlen, h0⟩, h1⟩, h2⟩, h5⟩, h6⟩ := hd
    obtain ⟨_, enabled⟩ := boolOf_of_lt (Nat.lt_succ_of_le h0)
    obtain ⟨_, polarity⟩ := polarityOf_of_lt (Nat.lt_succ_of_le h2)
    obtain ⟨_, action⟩ := actionOf_of_lt (Nat.lt_succ_of_le h5)
    obtain ⟨_, capture⟩ := boolOf_of_lt (Nat.lt_succ_of_le h6)
    exact ⟨_, by rw [serveConfigCue, needFull_full ha, needSize_eq hlen, needBelow_lt ht, needBelow_lt h1, needValue_some enabled,
      needValue_some polarity, needValue_some action, needValue_some capture]⟩

theorem serveSetScanPeriod_checks :
    Claimed.ServedBy ⟨0x31, .setScanPeriod, fun d => d.length = 2⟩ serveSetScanPeriod (NamesDevice 256) where
  serves _ _ _ _ := rfl
  short d hd := (of_decide_eq_true hd).le.trans (by decide)
  checks := by
    rintro port target d s _ ha ⟨-, rfl⟩ hd
    exact ⟨_, by rw [serveSetScanPeriod, needFull_full ha, needSize_eq (of_decide_eq_true hd)]⟩

theorem serveResetDevice_checks :
    Claimed.ServedBy ⟨0x34, .resetDevice, fun d => d = []⟩ serveResetDevice (NamesDevice 256) where
  serves _ _ _ _ := rfl
  short d hd := by simp [of_decide_eq_true hd]
  checks := by
    rintro port target d s _ ha ⟨-, rfl⟩ hd
    exact ⟨_, by rw [serveResetDevice, needFull_full ha, needSize_eq (List.length_eq_zero_iff.2 (of_decide_eq_true hd))]⟩

theorem deviceForms_served : ∀ f ∈ deviceForms, ∃ serve, f.1.ServedBy serve (NamesDevice f.2) := by
  simp only [deviceForms, List.forall_mem_cons]
  exact ⟨⟨_, serveLoadScanTable_checks⟩, ⟨_, serveSetScanPeriod_checks⟩, ⟨_, serveConfigCue_checks⟩, ⟨_, serveResetDevice_checks⟩, nofun⟩

/-! ### The slots and the links (R88, R125, R129) -/

section Checks
variable {s : State} {port : Port} {target : Byte}

theorem serveWriteProfile_checks {p : Prog} {i : Slot} {rest : List Byte} (h : s.ReadyFull port) (ht : target.toNat = p.val)
    (hitems : (profileItems rest).isSome = true) :
    ChecksClaim port (progRecord p) (s.hear port) (serveWriteProfile port target (count8 i.val :: rest) (s.hear port)) := by
  obtain ⟨items, hitems⟩ := Option.isSome_iff_exists.1 hitems
  exact ⟨_, by
    rw [serveWriteProfile, needFull_full (by rw [State.access_hear]; exact h.2), if_neg (by simp), needBelow_eq ht, byteAt_cons_zero,
      needBelow_eq (i := i) (count8_fin (by decide) i), List.tail_cons, needValue_some hitems]⟩

theorem serveCopyProfile_checks {p q : Prog} {i j : Slot} (h : s.ReadyFull port) (ht : target.toNat = p.val) (hne : (q, j) ≠ (p, i)) :
    ChecksClaim port (progRecord p) (s.hear port)
      (serveCopyProfile port target [count8 i.val, count8 q.val, count8 j.val] (s.hear port)) :=
  ⟨_, by rw [serveCopyProfile_ready i j q h ht, if_neg fun e => hne (Prod.ext e.1.symm e.2.symm)]⟩

/-- SET_LINK checks the claim on the lower programme, and then that on the upper (R88). -/
theorem serveSetLink_checks {b : Byte} {k : LinkFlag} (h : s.ReadyFull port) (ht : target.toNat = k.val) (hb : b.toNat ≤ 1) :
    ∃ a, serveSetLink port target [b] (s.hear port) = needClaim port (progRecord k.castSucc) (s.hear port) a ∧
      ChecksClaim port (progRecord k.succ) (s.hear port) a := by
  obtain ⟨x, hx⟩ := boolOf_of_lt (Nat.lt_succ_of_le hb)
  refine ⟨needClaim port (progRecord k.succ) (s.hear port) (done ((s.hear port).setLink k x)), ?_, _, rfl⟩
  rw [serveSetLink, needFull_full (by rw [State.access_hear]; exact h.2), needSize_eq (n := 1) rfl, needBelow_eq ht, byteAt_cons_zero,
    needValue_some hx]

end Checks

/-- Settles O30: the two tables of forms by the service of each row, the two requests that write slots, and SET_LINK by its first claim
and its second. -/
theorem unclaimedRequestsAreRefused : Obligations.UnclaimedRequestsAreRefused := by
  refine ⟨fun f hf s port target d p h ht hd hr => ?_, fun f hf s port target d h ht hd hr => ?_,
    fun s port target p i h ht hr => ⟨fun rest hlen hitems => ?_, fun q j hne => ?_⟩,
    fun s port target b k h ht hb => ?_⟩
  · obtain ⟨serve, hserve⟩ := programmeForms_served f hf
    exact hserve.unclaimed h ⟨p, ht, rfl⟩ hd hr
  · obtain ⟨serve, hserve⟩ := deviceForms_served f hf
    exact hserve.unclaimed h ⟨ht, rfl⟩ hd hr
  · exact Serves.unclaimed (c := .writeProfile) (fun _ _ _ _ => rfl) h.1 (Nat.succ_le_succ hlen) (serveWriteProfile_checks h ht hitems) hr
  · exact Serves.unclaimed (c := .copyProfile) (fun _ _ _ _ => rfl) h.1 (by simp) (serveCopyProfile_checks h ht hne) hr
  · have hserves : Serves serveSetLink 0x2B .setLink := fun _ _ _ _ => rfl
    obtain ⟨a, ha, hsecond⟩ := serveSetLink_checks h ht hb
    refine ⟨fun hlower => hserves.unclaimed h.1 (by simp) ⟨a, ha⟩ hlower, fun hlower hupper => hserves.unclaimed h.1 (by simp) ?_ hupper⟩
    rwa [ha, needClaim_held (s := s.hear port) hlower]

end Sys2Proof.Machine

/-! PROOFS. CLAIM and RELEASE: the two checks and the cases of the record (R158, R159). -/

namespace Sys2Proof.Machine

/-! ### What a request leaves that changes the holder of a record (R157) -/

theorem Serves.changes_holder {serve : Serve} {code target : Byte} {c : RequestCommand} (hc : Serves serve code c) {s : State}
    {port : Port} {payload bytes : List Byte} {x : Result} {r : ClaimRecord} {holder : Option Port} (h : s.Ready port)
    (hp : payload.length ≤ 48)
    (hs : serve port target payload (s.hear port) = { state := (s.hear port).changeHolder r holder, result := x, payload := bytes }) :
    ∃ t, exec (c port target payload) s = .next t ∧ s.Answers t port code target x bytes Source.claimChanged.bit ∧
      t = { s with ports := t.ports, notices := t.notices, claims := t.claims } ∧
      t.holder r = holder ∧ ∀ q, q ≠ r → t.holder q = s.holder q := by
  obtain ⟨t, ht, ha, hte, -⟩ := State.takeMessage_answers code target Source.claimChanged.bit h hp hs
    ((s.hear port).changeHolder_ports r holder) ((s.hear port).notice_changeHolder r holder)
  have hholder : ∀ q, t.holder q = if q = r then holder else s.holder q := fun q => by
    rw [hte]
    exact (s.hear port).holder_changeHolder r holder q
  refine ⟨t, ht ▸ hc port target payload s, ha, ?_, (hholder r).trans (if_pos rfl), fun q hq => (hholder q).trans (if_neg hq)⟩
  rw [hte, State.changeHolder_frame]
  rfl

/-! ### The two services -/

section Served
variable {s : State} {port : Port} {target : Byte}

/-- On a FULL port CLAIM of a record in range goes by its holder (R158). -/
theorem serveClaim_free {r : ClaimRecord} (ha : (s.port port).access = .full) (ht : target.toNat = r.val) (hr : s.holder r = none) :
    serveClaim port target [] s =
      { state := s.changeHolder r (some port), result := .granted, payload := [count8 port.val] } := by
  rw [serveClaim, needFull_full ha, needSize_eq (n := 0) rfl, needBelow_eq ht, hr]
  rfl

theorem serveClaim_held {r : ClaimRecord} {h : Port} (ha : (s.port port).access = .full) (ht : target.toNat = r.val)
    (hr : s.holder r = some h) : serveClaim port target [] s =
      { state := s, result := if h = port then .alreadyYours else .heldElsewhere, payload := [count8 h.val] } := by
  rw [serveClaim, needFull_full ha, needSize_eq (n := 0) rfl, needBelow_eq ht, hr]
  rfl

/-- On a FULL port RELEASE of a record in range goes by its holder (R159). -/
theorem serveRelease_own {r : ClaimRecord} (ha : (s.port port).access = .full) (ht : target.toNat = r.val)
    (hr : s.holder r = some port) :
    serveRelease port target [] s = { state := s.changeHolder r none, result := .ok, payload := [0xFF] } := by
  rw [serveRelease, needFull_full ha, needSize_eq (n := 0) rfl, needBelow_eq ht, if_pos hr]
  rfl

theorem serveRelease_other {r : ClaimRecord} (ha : (s.port port).access = .full) (ht : target.toNat = r.val)
    (hr : s.holder r ≠ some port) : serveRelease port target [] s =
      { state := s, result := .notHolder, payload := [stationByte (s.holder r)] } := by
  rw [serveRelease, needFull_full ha, needSize_eq (n := 0) rfl, needBelow_eq ht, if_neg hr]

end Served

/-- Settles O35: the class, the range of the TARGET, and the record free, one's own or another's. -/
theorem claimAnswers : Obligations.ClaimAnswers := by
  intro s port target h
  have hc : Serves serveClaim 0x10 .claim := fun _ _ _ _ => rfl
  have access : ∀ {a}, (s.port port).access = a → ((s.hear port).port port).access = a := fun ha => (s.access_hear port port).trans ha
  refine ⟨fun ha => hc.refuses h (by simp) (needFull_readOnly (access ha) _), fun ha ht => hc.refuses h (by simp) ?_, fun r ha ht =>
    ⟨fun hr => hc.changes_holder h (by simp) (serveClaim_free (access ha) ht hr), fun hr => hc.refuses_payload h (by simp) ?_,
      fun other hne hr => hc.refuses_payload h (by simp) ?_⟩⟩
  · rw [serveClaim, needFull_full (access ha), needSize_eq (n := 0) rfl, needBelow_out ht]
  · rw [serveClaim_held (s := s.hear port) (access ha) ht hr, if_pos rfl]
  · rw [serveClaim_held (s := s.hear port) (access ha) ht hr, if_neg hne]

/-- Settles O36: the class, the range of the TARGET, and the record one's own, free or another's. -/
theorem releaseAnswers : Obligations.ReleaseAnswers := by
  intro s port target h
  have hc : Serves serveRelease 0x11 .release := fun _ _ _ _ => rfl
  have access : ∀ {a}, (s.port port).access = a → ((s.hear port).port port).access = a := fun ha => (s.access_hear port port).trans ha
  have other : ∀ {r : ClaimRecord} {x}, (s.port port).access = .full → target.toNat = r.val → s.holder r = x → x ≠ some port →
      ∃ t, exec (.release port target []) s = .next t ∧ s.Refuses t port 0x11 target .notHolder [stationByte x] := by
    rintro r _ ha ht rfl hne
    exact hc.refuses_payload h (by simp) (serveRelease_other (s := s.hear port) (access ha) ht hne)
  refine ⟨fun ha => hc.refuses h (by simp) (needFull_readOnly (access ha) _), fun ha ht => hc.refuses h (by simp) ?_, fun r ha ht =>
    ⟨fun hr => hc.changes_holder h (by simp) (serveRelease_own (access ha) ht hr), fun hr => other ha ht hr nofun,
      fun q hne hr => other ha ht hr fun e => hne (Option.some.inj e)⟩⟩
  rw [serveRelease, needFull_full (access ha), needSize_eq (n := 0) rfl, needBelow_out ht]

end Sys2Proof.Machine

/-! PROOFS. STATION_ABSENCE: the drop of the claims, an expiry that has been overtaken, and a holder's request before and after it (R164,
R166, R168). -/

namespace Sys2Proof.Machine

/-! ### Conditions -/

/-- STATION_ABSENT reads true exactly while a port is ABSENT (R169). -/
theorem State.conditions_stationAbsent (s : State) :
    s.conditions &&& Source.stationAbsent.bit = Source.stationAbsent.bit ↔ s.anyAbsent = true := by
  rw [Source.bit, BitVec.and_twoPow, s.conditions_getLsbD]
  cases s.anyAbsent <;> simp [Source.num, BitVec.twoPow]

theorem State.Drops.stationAbsent {s t : State} {port : Port} (h : s.Drops t port) :
    t.conditions &&& Source.stationAbsent.bit = Source.stationAbsent.bit := by
  have hall : ∀ q, q ∈ allPorts := by decide
  refine t.conditions_stationAbsent.2 (List.any_eq_true.2 ⟨port, hall port, ?_⟩)
  rw [h.absent]
  rfl

/-- CLAIM_CHANGED fires where the station held a claim, and nothing fires where it held none (log entry 24). -/
theorem State.Drops.fires {s t : State} {port : Port} (h : s.Drops t port) :
    ((∃ r, s.holder r = some port) → s.NoticesFollow t Source.claimChanged.bit) ∧
    ((∀ r, s.holder r ≠ some port) → s.NoticesFollow t 0) := by
  have hn := h.notices
  refine ⟨fun hr => ?_, fun hr => ?_⟩
  · rwa [(s.any_claims port).2 hr] at hn
  · rwa [Bool.eq_false_iff.2 fun ha => (s.any_claims port).1 ha |>.elim hr] at hn

/-! ### A holder's SET_MODE (R10, R164) -/

/-- The mode asked for is the mode that comes (R10). -/
theorem State.mode_changeMode (s : State) (p : Prog) (m : Mode) : ((s.changeMode p m).prog p).mode = m := by
  have joined : ∀ u : State, (u.prog p).mode = .active → ((u.joinGroup p).prog p).mode = .active := fun u hu =>
    (u.undisturbed_joinGroup p p).toSteady.mode.trans hu
  by_cases hsame : (s.prog p).mode = m
  · rwa [State.changeMode_same hsame]
  cases m with
  | off => simp [State.changeMode_off hsame, State.fireSettled, Programme.enterOff]
  | measure => cases hm : (s.prog p).mode with
    | off => simp [State.changeMode_off_measure hm, State.fireSettled, Programme.leaveOff]
    | measure => exact absurd hm hsame
    | active => simp [State.changeMode_active_measure hm, State.fireSettled, Programme.toMeasure]
  | active => cases hm : (s.prog p).mode with
    | off =>
      rw [State.changeMode_off_active hm, State.fireSettled, State.prog_fireIf, State.prog_onProg, if_pos rfl]
      exact joined _ (by simp [Programme.leaveOff])
    | measure =>
      rw [State.changeMode_measure_active hm, State.fireSettled, State.prog_fireIf]
      exact joined _ (by simp [Programme.toActive])
    | active => exact absurd hm hsame

section Request
variable {s : State} {port : Port} {p : Prog} {target : Byte} {m : Mode}

/-- A holder's SET_MODE makes the change, and its port has been heard (R165). -/
theorem exec_setMode_holder (h : s.ReadyHolder port (progRecord p)) (ht : target.toNat = p.val) :
    ∃ u, exec (.setMode port target [count8 m.code]) s = .next u ∧ (u.prog p).mode = m ∧ u.held = false ∧
      ∃ serving, s.Heard u port serving := by
  obtain ⟨fired, hf⟩ := audioOp_changeMode p m s
  obtain ⟨u, hu, ⟨hheard, -⟩, hue⟩ :=
    State.takeMessage_fires 0x20 target h.1.1 (by simp) (serveSetMode_ready h ht (modeOf_code m)) hf
  refine ⟨u, congrArg Host.Outcome.next hu, ?_, ?_, _, hheard⟩
  · rw [hue]
    exact s.mode_changeMode p m
  · rw [hue]
    exact ((audioOp_changeMode p m).held s).trans h.1.1.1

/-- A SET_MODE on a free record is answered NOT_CLAIMED with the holder absent (R162). -/
theorem exec_setMode_unclaimed (h : s.ReadyFull port) (ht : target.toNat = p.val) (hr : s.holder (progRecord p) = none) :
    ∃ t, exec (.setMode port target [count8 m.code]) s = .next t ∧ s.Refuses t port 0x20 target .notClaimed [0xFF] := by
  obtain ⟨serve, hserve⟩ := programmeForms_served ⟨0x20, .setMode, _⟩ List.mem_cons_self
  have hwell : (decide ([count8 m.code].length = 1) && decide ((byteAt [count8 m.code] 0).toNat ≤ 2)) = true := by
    cases m <;> decide
  have hfree := hserve.unclaimed (d := [count8 m.code]) h ⟨p, ht, rfl⟩ hwell (by rw [hr]; exact nofun)
  rwa [hr] at hfree

end Request

/-! ### The expiry -/

section Expiry
variable {s t : State} {port : Port}

theorem PortState.isAbsent_present {P : PortState} {n : Nat} (h : P.presence = .present n) : P.isAbsent = false := by
  rw [PortState.isAbsent, h]

theorem exec_stationAbsence (hh : s.held = false) {n : Nat} (hp : (s.port port).presence = .present n) :
    ((s.port port).overtaken = false → ∃ t, exec (.stationAbsence port) s = .next t ∧ s.Drops t port) ∧
    ((s.port port).overtaken = true → ∃ t, exec (.stationAbsence port) s = .next t ∧ t = { s with ports := t.ports } ∧
      t.port port = { s.port port with overtaken := false } ∧ ∀ q, q ≠ port → t.port q = s.port q) := by
  have hpresent := PortState.isAbsent_present hp
  refine ⟨fun ho => ⟨_, rfl, State.drops_declareAbsent hh hpresent ho⟩, fun ho => ⟨_, rfl, ?_⟩⟩
  rw [State.declareAbsent_spent hh hpresent ho]
  exact ⟨rfl, by simp, fun q hq => by simp [hq]⟩

/-- A station whose claims have dropped holds none. -/
theorem State.Drops.holds_none (h : s.Drops t port) (r : ClaimRecord) : t.holder r ≠ some port := by
  rw [h.holder]
  split
  · exact nofun
  · assumption

/-- A drop leaves the class and the serving flag of its port, and no hold. -/
theorem State.Drops.readyFull (h : s.Drops t port) (hs : s.ReadyFull port) : t.ReadyFull port := by
  obtain ⟨⟨hh, hserving⟩, ha⟩ := hs
  refine ⟨⟨?_, ?_⟩, ?_⟩
  · rw [h.frame]
    exact hh
  · rw [h.absent]
    exact hserving
  · rw [h.absent]
    exact ha

end Expiry

/-- Settles O37: the expiry that drops, the one that has been overtaken, the one that a message overtakes, and a holder's SET_MODE in both
orders. -/
theorem absenceDropsTheClaims : Obligations.AbsenceDropsTheClaims := by
  intro s port n hh hp
  obtain ⟨drops, spent⟩ := exec_stationAbsence hh hp
  refine ⟨fun ho => ?_, spent, fun hn u serving huh hheard => ?_, fun hn ho target p m h ht => ⟨?_, ?_⟩⟩
  · obtain ⟨t, hx, hd⟩ := drops ho
    exact ⟨t, hx, hd.frame, hd.absent, hd.others, hd.holder, hd.fires.1, hd.fires.2, hd.stationAbsent⟩
  · obtain ⟨hport, hothers⟩ := hheard
    subst hn
    have hpresent : (u.port port).presence = .present silenceCycles := by rw [hport]
    have hovertaken : (u.port port).overtaken = true := by simp [hport, hp]
    obtain ⟨t, hx, hte, ht, hq⟩ := (exec_stationAbsence huh hpresent).2 hovertaken
    exact ⟨t, hx, hte, by rw [ht, hport]; rfl, fun q hne => (hq q hne).trans (hothers q hne)⟩
  · obtain ⟨u, hx, hm, huh, serving, hport, -⟩ := exec_setMode_holder (m := m) h ht
    have hpresent : (u.port port).presence = .present silenceCycles := by rw [hport]
    have hovertaken : (u.port port).overtaken = false := by
      have hn0 : n ≠ 0 := Nat.one_le_iff_ne_zero.1 hn
      simp [hport, ho, hp, hn0]
    obtain ⟨t, hx', hd⟩ := (exec_stationAbsence huh hpresent).1 hovertaken
    refine ⟨u, t, hx, hm, hx', ?_, hd.holds_none, ?_⟩
    · rw [hd.frame]
    · rw [hd.absent]
  · obtain ⟨u, hx, hd⟩ := drops ho
    have hfree : u.holder (progRecord p) = none := (hd.holder _).trans (if_pos h.2)
    obtain ⟨t, hx', href⟩ := exec_setMode_unclaimed (m := m) (hd.readyFull h.1) ht hfree
    obtain ⟨⟨⟨hport, -⟩, -⟩, -⟩ := id href
    refine ⟨u, t, hx, hx', href, ?_⟩
    rw [hport]
    rfl

end Sys2Proof.Machine

/-! PROOFS. The resets of the part, the requested reset at the end of its response, and the levels of TXD while a response is sent (R171,
R176, R187, R200 to R202). -/

namespace Sys2Proof.Machine

/-! ### The state that a reset leaves -/

section Reset
variable (s : State) (held : Bool) (record : ResetRecord) (access : Port → Access)

@[simp] theorem State.port_resetTo (p : Port) :
    (s.resetTo held record access).port p = { PortState.reset (access p) with overtaken := (s.port p).passed } := by
  simp [State.resetTo, State.port]

/-- The classes and the book of overtaken expiries are no condition. -/
theorem State.conditions_resetTo : (s.resetTo held record access).conditions = Source.clockLost.bit := by
  have hsame : (s.resetTo held record access).conditions = State.reset.conditions :=
    State.conditions_congr rfl rfl rfl Iff.rfl
      (State.anyAbsent_congr fun p => by rw [State.port_resetTo, State.port_reset]; rfl) rfl
  exact hsame.trans State.conditions_reset

/-- Beside its ports, a reset leaves what `State.reset` holds. -/
theorem State.resetTo_afterReset : (s.resetTo held record access).AfterReset := by
  obtain ⟨hprogs, hlinks, hrequest, hmonitor, hopen, htdm, hscan, hcues, hlog, hgap, hclaims, -, hnotices, -⟩ :=
    State.reset_afterReset
  refine ⟨hprogs, hlinks, hrequest, hmonitor, hopen, htdm, hscan, hcues, hlog, hgap, hclaims, fun p => ?_, hnotices,
    s.conditions_resetTo held record access⟩
  have hport := s.port_resetTo held record access p
  rw [hport]
  exact ⟨rfl, rfl, rfl, State.txdLevel_of_idle (by rw [hport]; rfl)⟩

/-- What every reset gives, whatever its occasion. -/
theorem State.resetTo_resets : let t := s.resetTo held record access
    t.AfterReset ∧ t.held = held ∧ t.record = record ∧ t.pending = s.pending ∧
      ∀ p, (t.port p).access = access p ∧ (t.port p).overtaken = (s.port p).passed :=
  ⟨s.resetTo_afterReset held record access, rfl, rfl, rfl, fun p => by
    rw [State.port_resetTo]
    exact ⟨rfl, rfl⟩⟩

end Reset

/-- Settles O5: a reset under the classes of the straps. -/
theorem powerOnResetsEverything : Obligations.PowerOnResetsEverything := fun straps s =>
  ⟨_, rfl, s.resetTo_resets true { kind := .powerOn, station := none } (strapAccess straps)⟩

theorem exec_pinReset (s : State) : exec .pinReset s =
    .next (if s.held then s else s.resetTo true { kind := .pin, station := none } s.classes) := rfl

/-- Settles O6: a reset under the classes as they stand, outside a hold. -/
theorem pinResetKeepsTheClasses : Obligations.PinResetKeepsTheClasses := by
  intro s
  constructor <;> intro hh <;> rw [exec_pinReset, hh]
  · exact ⟨_, rfl, s.resetTo_resets true { kind := .pin, station := none } s.classes⟩
  · rfl

/-! ### The request for a reset (R187) -/

theorem serveResetDevice_ready {s : State} {port : Port} (target : Byte) (h : s.ReadyHolder port deviceRecord) :
    serveResetDevice port target [] (s.hear port) = done { s.hear port with resetRequest := some port } := by
  rw [serveResetDevice, needFull_full (by rw [State.access_hear]; exact h.1.2), needSize_eq (n := 0) rfl,
    needClaim_held (by rw [State.holder_hear]; exact h.2)]

/-- Settles O49: the request passes every check, and serving it only notes the reset. -/
theorem resetDeviceWaitsForItsResponse : Obligations.ResetDeviceWaitsForItsResponse := by
  intro s port target h
  obtain ⟨t, hx, ha, ht, -⟩ := State.takeMessage_quiet 0x34 target h.1.1 (payload := []) (Nat.zero_le 48)
    (serveResetDevice_ready target h) rfl rfl
  refine ⟨t, congrArg Host.Outcome.next hx, ha, ?_⟩
  rw [ht]
  rfl

/-! ### The levels of a response (R171, R176) -/

/-- The data bits of a byte, the least significant first. -/
def dataBits (b : Byte) : List Bool :=
  [b.getLsbD 0, b.getLsbD 1, b.getLsbD 2, b.getLsbD 3, b.getLsbD 4, b.getLsbD 5, b.getLsbD 6, b.getLsbD 7]

theorem lineLevels_eq (b : Byte) : lineLevels b = false :: (dataBits b ++ [true]) := rfl

theorem getElem?_lineLevels_data (b : Byte) {i : Nat} (h : i < 8) : (lineLevels b)[1 + i]? = some (b.getLsbD i) := by
  interval_cases i <;> rfl

theorem length_flatMap_lineLevels (m : List Byte) : (m.flatMap lineLevels).length = 10 * m.length := by
  simp [List.length_flatMap, Nat.mul_comm]

/-- Each byte of a message takes ten bit times, one byte after another. -/
theorem getElem?_flatMap_lineLevels {m : List Byte} {j i : Nat} {b : Byte} (hb : m[j]? = some b) (hi : i < 10) :
    (m.flatMap lineLevels)[10 * j + i]? = (lineLevels b)[i]? := by
  induction m generalizing j with
  | nil => simp at hb
  | cons x xs ih =>
    rw [List.flatMap_cons]
    cases j with
    | zero =>
      obtain rfl : x = b := by simpa using hb
      rw [Nat.mul_zero, Nat.zero_add, List.getElem?_append_left (by rw [lineLevels_length]; exact hi)]
    | succ j =>
      have hpast : 10 * (j + 1) + i - (lineLevels x).length = 10 * j + i := by rw [lineLevels_length]; omega
      rw [List.getElem?_append_right (by rw [lineLevels_length]; omega), hpast]
      exact ih (by simpa using hb)

section Txd
variable {s : State} {port : Port} {m : List Byte}

/-- Within a byte of the response TXD has that byte's levels. -/
theorem State.txdLevel_byte (hm : (s.port port).serving = some m) {j i : Nat} {b : Byte} (hb : m[j]? = some b) (hi : i < 10) :
    s.txdLevel port (10 * j + i) = (lineLevels b)[i]?.getD true := by
  rw [State.txdLevel, hm, Option.getD_some, List.getD_eq_getElem?_getD, getElem?_flatMap_lineLevels hb hi]

/-- After the last byte of the response TXD is high. -/
theorem State.txdLevel_after (hm : (s.port port).serving = some m) {k : Nat} (hk : 10 * m.length ≤ k) :
    s.txdLevel port k = true := by
  rw [State.txdLevel, hm, Option.getD_some]
  exact List.getD_eq_default _ _ (by rw [length_flatMap_lineLevels]; exact hk)

/-! ### The end of a response (R176, R187) -/

theorem exec_responseEnd (hh : s.held = false) (hm : (s.port port).serving = some m) :
    exec (.responseEnd port) s = .next (if s.resetRequest = some port then s.requestedReset port
      else s.onPort port fun P => { P with serving := none }) := by
  show Host.Outcome.next _ = _
  simp only [hh, hm]

theorem exec_requestedReset (hh : s.held = false) (hr : s.resetRequest = some port) :
    exec .requestedReset s = .next (s.requestedReset port) := by
  show Host.Outcome.next _ = _
  simp only [hh, hr]

end Txd

/-- Settles O8: the levels byte by byte, and the end of a response without and with a reset that waits for it. -/
theorem responseEndsAndRequestedResetActs : Obligations.ResponseEndsAndRequestedResetActs := by
  intro s port m hh hm
  refine ⟨fun j b hb => ⟨?_, fun i hi => ?_, ?_⟩, fun k => State.txdLevel_after hm, fun hr => ?_, fun hr => ?_⟩
  · exact State.txdLevel_byte hm hb (i := 0) (by decide)
  · rw [Nat.add_assoc, State.txdLevel_byte hm hb (by omega), getElem?_lineLevels_data b hi]
    rfl
  · exact State.txdLevel_byte hm hb (i := 9) (by decide)
  · have hport : (s.onPort port fun P => { P with serving := none }).port port = { s.port port with serving := none } := by simp
    rw [exec_responseEnd hh hm, if_neg hr]
    exact ⟨_, rfl, rfl, hport, fun q hq => by simp [hq], State.txdLevel_of_idle (by rw [hport])⟩
  · rw [exec_responseEnd hh hm, if_pos hr, exec_requestedReset hh hr]
    exact ⟨_, rfl, rfl, s.resetTo_resets false { kind := .request, station := some port } s.classes⟩

end Sys2Proof.Machine

/-! PROOFS. A byte on the line and in the receive half of a port, and the bytes of a whole message (R171 to R175). -/

namespace Sys2Proof.Machine

/-! ### The line (R171) -/

section Line
variable (port : Port) (rest : List Bool)

theorem lineCommands_idle_high (n : Nat) :
    lineCommands port .idle (List.replicate n true ++ rest) = lineCommands port .idle rest := by
  induction n with
  | zero => rfl
  | succ n ih => exact ih

/-- After a framing error the line gives no byte until it returns high. -/
theorem lineCommands_low (n : Nat) :
    lineCommands port .low (List.replicate n false ++ true :: rest) = lineCommands port .idle rest := by
  induction n with
  | zero => rfl
  | succ n ih => exact ih

/-- A falling edge, and the eight samples after it. -/
theorem lineCommands_dataBits (b : Byte) :
    lineCommands port .idle (false :: dataBits b ++ rest) = lineCommands port (.inByte (dataBits b)) rest := rfl

theorem lineCommands_stop_high (b : Byte) : lineCommands port (.inByte (dataBits b)) (true :: rest) =
    .byteReceived port b :: lineCommands port .idle rest := by
  have hstop : (LineState.inByte (dataBits b)).sample port true = (.idle, some (.byteReceived port b)) := by
    conv_rhs => rw [← count8_packBits b]
    rfl
  rw [lineCommands, hstop]
  rfl

theorem lineCommands_stop_low (b : Byte) : lineCommands port (.inByte (dataBits b)) (false :: rest) =
    .messageDiscard port .framingError :: lineCommands port .low rest := rfl

/-- Whole bytes on the line, one after another, are received as they are. -/
theorem lineCommands_bytes (bytes : List Byte) :
    lineCommands port .idle (bytes.flatMap lineLevels) = bytes.map (.byteReceived port) := by
  induction bytes with
  | nil => rfl
  | cons b bytes ih =>
    rw [List.flatMap_cons, lineLevels_eq, List.cons_append, List.append_assoc, ← List.cons_append, lineCommands_dataBits,
      List.singleton_append, lineCommands_stop_high, ih, List.map_cons]

end Line

/-! ### The receive half byte by byte (R175) -/

section Bytes
variable {s : State} {port : Port}

theorem exec_byteReceived_idle (hh : s.held = false) (hr : (s.port port).receive = .idle) (b : Byte) :
    exec (.byteReceived port b) s = .next (if b = 0x5A then s.receiveOn port [] else s) := by
  show Host.Outcome.next _ = _
  simp only [hh, hr]
  rfl

theorem exec_byteReceived_receiving {bytes : List Byte} {n : Nat} (hh : s.held = false)
    (hr : (s.port port).receive = .receiving bytes n) (b : Byte) :
    exec (.byteReceived port b) s = .next (s.receiveByte port bytes b) := by
  show Host.Outcome.next _ = _
  simp only [hh, hr]
  rfl

theorem lengthOk_iff (b : Byte) : lengthOk b = true ↔ 2 ≤ b.toNat ∧ b.toNat ≤ 50 := by simp [lengthOk]

theorem onlyCheckMissing_cons (len : Byte) (rest : List Byte) :
    onlyCheckMissing (len :: rest) = decide (len.toNat ≤ rest.length) := by
  simp [onlyCheckMissing, coveredLength, byteAt, Nat.add_comm 1]

theorem State.receiveByte_length (b : Byte) :
    s.receiveByte port [] b = if 2 ≤ b.toNat ∧ b.toNat ≤ 50 then s.receiveOn port [b] else s.stopReceiving port := by
  simp only [State.receiveByte, if_true, lengthOk_iff]

theorem State.receiveByte_more {len : Byte} {rest : List Byte} (h : rest.length < len.toNat) (b : Byte) :
    s.receiveByte port (len :: rest) b = s.receiveOn port (len :: rest ++ [b]) := by
  simp [State.receiveByte, onlyCheckMissing_cons, Nat.not_le.2 h]

/-- The byte after those that LENGTH covers is the CHECK. -/
theorem State.receiveByte_check {len : Byte} {rest : List Byte} (h : rest.length = len.toNat) (b : Byte) :
    s.receiveByte port (len :: rest) b =
      if crc (len :: rest) = b then
        s.takeMessage port (byteAt rest 0) (byteAt rest 1) (rest.drop 2) (serveCode (byteAt rest 0))
      else s.stopReceiving port := by
  simp [State.receiveByte, onlyCheckMissing_cons, h, byteAt]

/-! ### Discards -/

theorem exec_messageDiscard_idle (hr : (s.port port).receive = .idle) (cause : DiscardCause) :
    exec (.messageDiscard port cause) s = .next s := by
  show Host.Outcome.next _ = _
  rw [hr]
  cases s.held <;> rfl

theorem exec_messageDiscard {bytes : List Byte} {n : Nat} {cause : DiscardCause} (hh : s.held = false)
    (hr : (s.port port).receive = .receiving bytes n) (hc : discardOccasion cause bytes = true) :
    exec (.messageDiscard port cause) s = .next (s.stopReceiving port) := by
  show Host.Outcome.next _ = _
  simp only [hh, hr, hc, if_true]

theorem exec_interByteTimeout {bytes : List Byte} {n : Nat} (hh : s.held = false)
    (hr : (s.port port).receive = .receiving bytes n) : exec (.interByteTimeout port) s = .next (s.stopReceiving port) := by
  show Host.Outcome.next _ = _
  simp only [hh, hr]

/-- What a command leaves that changes the receive half of `port` to `r` and nothing else. -/
theorem becomes_of_exec {c : Instr} {r : Receiving} (h : exec c s = .next (s.onPort port fun P => { P with receive := r })) :
    ∃ t, exec c s = .next t ∧ t = { s with ports := t.ports } ∧
      t.port port = { s.port port with receive := r } ∧ ∀ q, q ≠ port → t.port q = s.port q :=
  ⟨_, h, rfl, by simp, fun q hq => by simp [hq]⟩

end Bytes

/-- Settles O53: the levels of one byte, and the receive half by what it has stored. -/
theorem receiveHalfTakesBytes : Obligations.ReceiveHalfTakesBytes := by
  refine ⟨fun port b rest n => ⟨lineCommands_idle_high port rest n, lineCommands_stop_high port rest b, ?_⟩,
    fun s port hh => ⟨fun hr => ⟨?_, fun b hb => ?_, exec_messageDiscard_idle hr⟩,
      fun n hr b => ⟨fun hlo hhi => ?_, fun hout => ?_, ?_⟩, fun len rest n hr b => ⟨fun hlt => ?_, fun heq hb => ?_, fun heq => ?_⟩, fun bytes n hr => ⟨?_, ?_⟩⟩⟩
  · exact (lineCommands_stop_low port _ b).trans (congrArg _ (lineCommands_low port rest n))
  · exact becomes_of_exec (exec_byteReceived_idle hh hr 0x5A)
  · rw [exec_byteReceived_idle hh hr, if_neg hb]
  · exact becomes_of_exec (by rw [exec_byteReceived_receiving hh hr, State.receiveByte_length, if_pos ⟨hlo, hhi⟩]; rfl)
  · exact becomes_of_exec (by rw [exec_byteReceived_receiving hh hr, State.receiveByte_length, if_neg (by omega)]; rfl)
  · exact becomes_of_exec (exec_messageDiscard hh hr rfl)
  · exact becomes_of_exec (by rw [exec_byteReceived_receiving hh hr, State.receiveByte_more hlt]; rfl)
  · exact becomes_of_exec (by rw [exec_byteReceived_receiving hh hr, State.receiveByte_check heq, if_neg (Ne.symm hb)]; rfl)
  · exact becomes_of_exec (exec_messageDiscard hh hr ((onlyCheckMissing_cons len rest).trans (decide_eq_true heq.ge)))
  · exact becomes_of_exec (exec_messageDiscard hh hr rfl)
  · exact becomes_of_exec (exec_interByteTimeout hh hr)

/-! ### A whole message (R172, R174) -/

section Message
variable {s : State} {port : Port}

theorem State.receive_receiveOn (bytes : List Byte) :
    ((s.receiveOn port bytes).port port).receive = .receiving bytes interByteCycles := by simp [State.receiveOn]

theorem State.receiveOn_receiveOn (bytes more : List Byte) :
    (s.receiveOn port bytes).receiveOn port more = s.receiveOn port more := by
  refine State.ext_fields rfl rfl rfl rfl rfl rfl rfl rfl rfl rfl rfl rfl rfl (State.ports_ext fun q => ?_) rfl rfl
  by_cases hq : q = port <;> simp [State.receiveOn, hq]

/-- A message heard ends whatever the receive half holds (R175). -/
theorem State.hear_receiveOn (bytes : List Byte) : (s.receiveOn port bytes).hear port = s.hear port := by
  have hports : ∀ q, ((s.receiveOn port bytes).hear port).port q = (s.hear port).port q := fun q => by
    by_cases hq : q = port <;> simp [State.receiveOn, hq, PortState.passed, PortState.runOut]
  have hbefore : (s.receiveOn port bytes).conditions = s.conditions :=
    State.conditions_congr rfl rfl rfl Iff.rfl
      (State.anyAbsent_congr fun q => by by_cases hq : q = port <;> simp [State.receiveOn, hq, PortState.isAbsent]) rfl
  have hafter : ((s.receiveOn port bytes).hear port).conditions = (s.hear port).conditions :=
    State.conditions_eq rfl rfl rfl (State.ports_ext hports)
  refine State.ext_fields rfl rfl rfl rfl rfl rfl rfl rfl rfl rfl rfl rfl rfl (State.ports_ext hports)
    (State.notices_ext fun q => ?_) rfl
  rw [State.notice_hear, State.notice_hear, hbefore, hafter]
  rfl

/-- What the receive half holds is nothing to the message it completes. -/
theorem State.takeMessage_receiveOn (bytes : List Byte) (hh : s.held = false) (code target : Byte) {payload : List Byte}
    (hp : payload.length ≤ 48) (serve : Serve) :
    (s.receiveOn port bytes).takeMessage port code target payload serve = s.takeMessage port code target payload serve := by
  have hfits : ¬(maxPayload < payload.length) := Nat.not_lt.2 hp
  have hheld : (s.receiveOn port bytes).held = false := hh
  simp [State.takeMessage, hh, hheld, hfits, State.hear_receiveOn]

/-- The next byte of a queue, where it comes short of the CHECK. -/
theorem step_byteReceived_more {len b : Byte} {rest : List Byte} {queue : List Instr} (hh : s.held = false)
    (h : rest.length < len.toNat) :
    step ({ s with pending := .byteReceived port b :: queue }.receiveOn port (len :: rest)) =
      .next ({ s with pending := queue }.receiveOn port (len :: (rest ++ [b]))) := by
  rw [step_cons (c := .byteReceived port b) (rest := queue) rfl]
  refine (exec_byteReceived_receiving (s := { s with pending := queue }.receiveOn port (len :: rest)) hh
    (State.receive_receiveOn _) b).trans ?_
  rw [State.receiveByte_more h, State.receiveOn_receiveOn]
  rfl

/-- The bytes that LENGTH covers are stored one by one. -/
theorem run_covered {len : Byte} {queue : List Instr} (hh : s.held = false) (more : List Byte) :
    ∀ rest : List Byte, rest.length + more.length ≤ len.toNat →
      run more.length ({ s with pending := more.map (Instr.byteReceived port) ++ queue }.receiveOn port (len :: rest)) =
        .next ({ s with pending := queue }.receiveOn port (len :: (rest ++ more))) := by
  induction more with
  | nil =>
    intro rest _
    rw [List.append_nil]
    rfl
  | cons b more ih =>
    intro rest h
    rw [List.length_cons] at h
    rw [List.length_cons, List.map_cons, List.cons_append, run_succ (step_byteReceived_more hh (by omega)),
      ih _ (by rw [List.length_append, List.length_singleton]; omega), List.append_assoc, List.singleton_append]

/-- SYNC and LENGTH. -/
theorem run_opening {len : Byte} {queue : List Instr} (hh : s.held = false) (hr : (s.port port).receive = .idle)
    (hlo : 2 ≤ len.toNat) (hhi : len.toNat ≤ 50)
    (hq : s.pending = .byteReceived port 0x5A :: .byteReceived port len :: queue) :
    run 2 s = .next ({ s with pending := queue }.receiveOn port [len]) := by
  have hsync : step s = .next ({ s with pending := .byteReceived port len :: queue }.receiveOn port []) :=
    (step_cons hq).trans (exec_byteReceived_idle (s := { s with pending := .byteReceived port len :: queue }) hh hr 0x5A)
  rw [run_succ hsync, run_one, step_cons (c := .byteReceived port len) (rest := queue) rfl]
  refine (exec_byteReceived_receiving (s := { s with pending := queue }.receiveOn port []) hh
    (State.receive_receiveOn _) len).trans ?_
  rw [State.receiveByte_length, if_pos ⟨hlo, hhi⟩, State.receiveOn_receiveOn]

/-- The CHECK byte of a well-formed message. -/
theorem step_check {len code target : Byte} {payload : List Byte} (hh : s.held = false) (hp : payload.length ≤ 48)
    (hlen : len.toNat = payload.length + 2) :
    step ({ s with pending := [.byteReceived port (crc (len :: code :: target :: payload))] }.receiveOn port
        (len :: code :: target :: payload)) =
      exec (.unknownRequest port code target payload) { s with pending := [] } := by
  rw [step_cons (c := .byteReceived port _) (rest := []) rfl]
  refine (exec_byteReceived_receiving (s := { s with pending := [] }.receiveOn port (len :: code :: target :: payload)) hh
    (State.receive_receiveOn _) _).trans ?_
  rw [State.receiveByte_check (by simp [hlen]), if_pos rfl]
  exact congrArg Host.Outcome.next (State.takeMessage_receiveOn (s := { s with pending := [] }) _ hh code target hp _)

/-- The bytes of a request, received on an IDLE port, come to the message of its code. -/
theorem run_frameMessage {code target : Byte} {payload : List Byte} (hh : s.held = false)
    (hr : (s.port port).receive = .idle) (hp : payload.length ≤ 48)
    (hq : s.pending = (frameMessage (code :: target :: payload)).map (.byteReceived port)) :
    run (payload.length + 5) s = exec (.unknownRequest port code target payload) { s with pending := [] } := by
  obtain ⟨len, hframed, hlen⟩ : ∃ len : Byte, frameMessage (code :: target :: payload) =
      0x5A :: len :: ((code :: target :: payload) ++ [crc (len :: code :: target :: payload)]) ∧
      len.toNat = payload.length + 2 :=
    ⟨_, rfl, by rw [BitVec.toNat_ofNat, List.length_cons, List.length_cons]; omega⟩
  rw [hframed, List.map_cons, List.map_cons, List.map_append] at hq
  have hcount : payload.length + 5 = 2 + ((code :: target :: payload).length + 1) := by
    rw [List.length_cons, List.length_cons]; omega
  rw [hcount, run_add (run_opening hh hr (by omega) (by omega) hq),
    run_add (run_covered hh _ [] (by rw [hlen]; simp)), run_one]
  exact step_check hh hp hlen

end Message

/-- Settles O54: the line, the bytes of a message one by one, and each request's command as the message of its code. -/
theorem bytesMakeTheRequest : Obligations.BytesMakeTheRequest :=
  ⟨fun port m => lineCommands_bytes port (frameMessage m),
    fun _ _ _ _ _ hh hr hp hq => run_frameMessage hh hr hp hq,
    fun r hr s port target payload => (commands_serve r hr port target payload s).symm⟩

end Sys2Proof.Machine

/-! PROOFS. The notice sets of one station: what they keep, and each move of them source by source (R190 to R197). -/

namespace Sys2Proof.Machine

/-! ### The sources by their numbers (R190) -/

theorem Source.bit_getLsbD (x : Source) (i : Nat) : x.bit.getLsbD i = decide (i = x.num) := by
  have hnum : x.num < 13 := by cases x <;> decide
  rw [Source.bit, BitVec.getLsbD_twoPow, decide_eq_true hnum, Bool.true_and, Bool.decide_congr eq_comm]

theorem conditionSources_getLsbD (i : Nat) : conditionSources.getLsbD i = decide (i ∈ [1, 2, 3, 6, 10, 11]) := by
  rw [Bool.eq_iff_iff]
  simp only [conditionSources, BitVec.getLsbD_or, Source.bit_getLsbD, Bool.or_eq_true, decide_eq_true_iff]
  simp [Source.num, or_assoc]

/-! ### What the sets keep (R191, R193) -/

/-- A set lies within another exactly if each of its sources does. -/
theorem sources_within_iff {a b : SourceSet} : a &&& ~~~b = 0 ↔ ∀ i, a.getLsbD i = true → b.getLsbD i = true := by
  simp only [BitVec.eq_of_getLsbD_eq_iff, BitVec.getLsbD_and, BitVec.getLsbD_not, BitVec.ofNat_eq_ofNat, BitVec.getLsbD_zero]
  refine ⟨fun h i ha => ?_, fun h i hi => ?_⟩
  · have hi := BitVec.lt_of_getLsbD ha
    simpa [ha, hi] using h i hi
  · cases ha : a.getLsbD i with
    | false => rfl
    | true => simp only [h i ha, Bool.not_true, Bool.and_false]

/-- Two sets agree within two others exactly if they do source by source. -/
theorem sources_agree_iff {a b m l : SourceSet} : a &&& m &&& l = b &&& m &&& l ↔
    ∀ i, m.getLsbD i = true → l.getLsbD i = true → a.getLsbD i = b.getLsbD i := by
  simp only [BitVec.eq_of_getLsbD_eq_iff, BitVec.getLsbD_and]
  refine ⟨fun h i hm hl => ?_, fun h i _ => ?_⟩
  · simpa only [hm, hl, Bool.and_true] using h i (BitVec.lt_of_getLsbD hm)
  · cases hm : m.getLsbD i with
    | false => simp only [Bool.and_false, Bool.false_and]
    | true => cases hl : l.getLsbD i with
      | false => simp only [Bool.and_false]
      | true => rw [h i hm hl]

/-- A source outside the mask is not pending, and the mode set holds conditions alone (R191). -/
structure Notice.Proper (n : Notice) : Prop where
  enabled : ∀ i, n.pending.getLsbD i = true → n.mask.getLsbD i = true
  conditions : ∀ i, n.modes.getLsbD i = true → conditionSources.getLsbD i = true

/-- Beside that, each enabled LEVEL condition is pending exactly if it is true, where `now` holds the true conditions (R193). -/
structure Notice.Agrees (n : Notice) (now : SourceSet) : Prop extends n.Proper where
  level : ∀ i, n.mask.getLsbD i = true → n.modes.getLsbD i = true → n.pending.getLsbD i = now.getLsbD i

theorem State.noticesAgree_iff {s : State} : s.NoticesAgree ↔ ∀ p, (s.notice p).Agrees s.conditions := by
  simp only [State.NoticesAgree, sources_within_iff, sources_agree_iff]
  exact ⟨fun h p => ⟨⟨(h p).1, (h p).2.1⟩, (h p).2.2⟩, fun h p => ⟨(h p).enabled, (h p).conditions, (h p).level⟩⟩

/-! ### The moves -/

section Moves
variable {n : Notice} (was now x : SourceSet) (i : Nat)

theorem Notice.follow_pending : (n.follow was now).pending.getLsbD i =
    if n.mask.getLsbD i && n.modes.getLsbD i then now.getLsbD i
    else n.pending.getLsbD i || (now.getLsbD i && !was.getLsbD i && n.mask.getLsbD i) := by
  by_cases hi : i < 13
  · simp only [Notice.follow, BitVec.getLsbD_or, BitVec.getLsbD_and, BitVec.getLsbD_not, hi, decide_true, Bool.true_and]
    cases n.mask.getLsbD i <;> cases n.modes.getLsbD i <;> simp
  · simp [BitVec.getLsbD_of_ge, Nat.not_lt.1 hi]

/-- R195. -/
theorem Notice.Proper.setMask_pending (h : n.Proper) : (n.setMask now x).pending.getLsbD i =
    (x.getLsbD i && if n.mask.getLsbD i then n.pending.getLsbD i else n.modes.getLsbD i && now.getLsbD i) := by
  have henabled := h.enabled i
  by_cases hi : i < 13
  · simp only [Notice.setMask, BitVec.getLsbD_or, BitVec.getLsbD_and, BitVec.getLsbD_not, hi, decide_true, Bool.true_and]
    revert henabled
    cases n.mask.getLsbD i <;> cases n.pending.getLsbD i <;> simp [Bool.and_assoc]
  · simp [BitVec.getLsbD_of_ge, Nat.not_lt.1 hi]

/-- R196. -/
theorem Notice.setModes_pending : (n.setModes now x).pending.getLsbD i =
    if (n.setModes now x).modes.getLsbD i && !n.modes.getLsbD i then n.mask.getLsbD i && now.getLsbD i else n.pending.getLsbD i := by
  by_cases hi : i < 13
  · simp only [Notice.setModes, BitVec.getLsbD_or, BitVec.getLsbD_and, BitVec.getLsbD_not, hi, decide_true, Bool.true_and]
    cases x.getLsbD i && conditionSources.getLsbD i && !n.modes.getLsbD i <;> simp
  · simp [BitVec.getLsbD_of_ge, Nat.not_lt.1 hi]

/-- R197. -/
theorem Notice.acknowledge_pending :
    (n.acknowledge x).pending.getLsbD i = (n.pending.getLsbD i && !(x.getLsbD i && !n.modes.getLsbD i)) := by
  by_cases hi : i < 13
  · simp only [Notice.acknowledge, BitVec.getLsbD_and, BitVec.getLsbD_not, hi, decide_true, Bool.true_and]
  · simp [BitVec.getLsbD_of_ge, Nat.not_lt.1 hi]

end Moves

/-! ### What each move keeps -/

namespace Notice.Proper
variable {n : Notice} (h : n.Proper) (was now x : SourceSet)
include h

/-- Events fire in enabled sources alone (R192). -/
theorem fire : Notice.Proper { n with pending := n.pending ||| (n.mask &&& x) } := by
  refine ⟨fun i hi => ?_, h.conditions⟩
  rw [BitVec.getLsbD_or, BitVec.getLsbD_and, Bool.or_eq_true, Bool.and_eq_true] at hi
  exact hi.elim (h.enabled i) And.left

/-- Following brings the LEVEL bits to the conditions, whatever they were (R193). -/
theorem follow : (n.follow was now).Agrees now where
  enabled i hi := by
    rw [Notice.follow_pending] at hi
    have henabled := h.enabled i
    show n.mask.getLsbD i = true
    grind
  conditions := h.conditions
  level i (hm : n.mask.getLsbD i = true) (hl : n.modes.getLsbD i = true) := by
    rw [Notice.follow_pending, hm, hl]
    rfl

theorem setMask : (n.setMask now x).Proper where
  enabled i hi := by
    rw [h.setMask_pending, Bool.and_eq_true] at hi
    exact hi.1
  conditions := h.conditions

theorem setModes : (n.setModes now x).Proper where
  enabled i hi := by
    rw [Notice.setModes_pending] at hi
    split at hi
    · exact (Bool.and_eq_true_iff.1 hi).1
    · exact h.enabled i hi
  conditions i hi := by
    rw [Notice.setModes, BitVec.getLsbD_and, Bool.and_eq_true] at hi
    exact hi.2

theorem acknowledge : (n.acknowledge x).Proper where
  enabled i hi := by
    rw [Notice.acknowledge_pending, Bool.and_eq_true] at hi
    exact h.enabled i hi.1
  conditions := h.conditions

end Notice.Proper

namespace Notice.Agrees
variable {n : Notice} {now : SourceSet} (h : n.Agrees now) (x : SourceSet)
include h

theorem setMask : (n.setMask now x).Agrees now where
  toProper := h.toProper.setMask now x
  level i hm hl := by
    have hlevel := h.level i
    rw [h.setMask_pending, show x.getLsbD i = true from hm, show n.modes.getLsbD i = true from hl]
    split
    · exact hlevel ‹_› hl
    · rfl

theorem setModes : (n.setModes now x).Agrees now where
  toProper := h.toProper.setModes now x
  level i (hm : n.mask.getLsbD i = true) hl := by
    rw [Notice.setModes_pending, hl, hm]
    cases hwas : n.modes.getLsbD i with
    | false => rfl
    | true => exact h.level i hm hwas

theorem acknowledge : (n.acknowledge x).Agrees now where
  toProper := h.toProper.acknowledge x
  level i (hm : n.mask.getLsbD i = true) (hl : n.modes.getLsbD i = true) := by
    rw [Notice.acknowledge_pending, hl, h.level i hm hl]
    simp

/-- With no condition changed the sets stand. -/
theorem follow_self : n.follow now now = n := Notice.follow_self n now (sources_agree_iff.2 h.level)

end Notice.Agrees

end Sys2Proof.Machine

/-! PROOFS. The notice sets through the work of a command, before the conditions are followed at its end (R190 to R193). -/

namespace Sys2Proof.Machine

/-- The part is out of a hold and its notice sets are proper: all that the work of a command has to keep, as the following of the
conditions at its end makes the LEVEL bits agree, whatever they were. -/
structure State.Watching (s : State) : Prop where
  held : s.held = false
  proper : ∀ p, (s.notice p).Proper

namespace State.Watching
variable {s t : State}

/-- Work that touches no notice set. -/
theorem of_same (h : s.Watching) (hh : t.held = s.held) (hn : t.notices = s.notices) : t.Watching :=
  ⟨hh.trans h.held, fun p => by rw [State.notice, hn]; exact h.proper p⟩

/-- Work that fires events (R192). -/
theorem of_fired (h : s.Watching) (hh : t.held = s.held) (fired : SourceSet) (hn : ∀ q, t.notice q =
    { s.notice q with pending := (s.notice q).pending ||| ((s.notice q).mask &&& fired) }) : t.Watching :=
  ⟨hh.trans h.held, fun p => by rw [hn]; exact (h.proper p).fire fired⟩

theorem audio (h : s.Watching) {g : State → State} (hg : AudioOp g) : (g s).Watching := by
  obtain ⟨fired, hf⟩ := hg s
  exact h.of_fired (hg.held s) fired hf.notice

theorem onPort (h : s.Watching) (port : Port) (f : PortState → PortState) : (s.onPort port f).Watching := h.of_same rfl rfl

theorem followFrom (h : s.Watching) (u : State) : (s.followFrom u).Watching :=
  ⟨h.held, fun p => by rw [State.notice_followFrom]; exact ((h.proper p).follow _ _).toProper⟩

theorem hear (h : s.Watching) (port : Port) : (s.hear port).Watching := (h.onPort port _).followFrom s

theorem changeHolder (h : s.Watching) (r : ClaimRecord) (x : Option Port) : (s.changeHolder r x).Watching :=
  h.of_fired rfl _ (s.notice_changeHolder r x)

theorem dropClaims (h : s.Watching) (port : Port) : (s.dropClaims port).Watching := by
  refine h.of_fired (by rw [State.dropClaims_frame])
    (Source.claimChanged.bitIf (s.claims.toList.any fun r => decide (r = some port))) fun q => ?_
  rw [State.dropClaims, State.notice_fireIf]
  rfl

/-! ### The cue unit (R145 to R148) -/

theorem assertCue (h : s.Watching) (l : CueLine) : (s.assertCue l).Watching := by
  rw [← State.assertCue_complete]
  have hdue := State.due_completed s l
  exact (h.audio (audioOp_complete _)).of_fired (by rw [State.assertCue_frame hdue]) _ (State.signals_assertCue hdue).notice

theorem releaseCue (h : s.Watching) (l : CueLine) : (s.releaseCue l).Watching := by
  rw [← State.releaseCue_complete]
  have hdue := State.due_completed s l
  exact (h.audio (audioOp_complete _)).of_fired (by rw [State.releaseCue_frame hdue]) _ (State.signals_releaseCue hdue).notice

theorem sampleCue (h : s.Watching) (l : CueLine) (pin : Bool) : (s.sampleCue l pin).Watching := by
  unfold State.sampleCue
  dsimp only
  split
  · exact h
  split
  · exact h.of_same rfl rfl
  split
  · unfold State.qualifyCue
    split
    · exact h.releaseCue l
    · exact h.assertCue l
  · exact h.of_same rfl rfl

theorem sampleCues (h : s.Watching) (pins : BitVec 4) : (s.sampleCues pins).Watching := by
  rw [State.sampleCues_eq]
  generalize allLines = ls
  induction ls generalizing s with
  | nil => exact h
  | cons l ls ih => exact ih (h.sampleCue l _)

theorem configureCue (h : s.Watching) (l : CueLine) (f : CueConfig) : (s.configureCue l f).Watching := by
  rw [State.configureCue_frame]
  exact h.of_same rfl rfl

/-! ### The requests -/

/-- A request whose effect on the programme of its TARGET is an operation of the audio side. -/
theorem keeps_of_audio {n : Nat} {g : Prog → List Byte → State → State} {k : State → Prog → List Byte → Reply} {serve : Serve}
    (hg : ∀ p d, AudioOp (g p d)) (hk : ∀ s p d, (k s p d).state = g p d s)
    (he : ∀ port target payload (s : State), serve port target payload s = needFull port s (needSize n payload s <|
      needBelow 8 target s fun p => needClaim port (progRecord p) s (k s p payload))) : serve.Keeps State.Watching :=
  fun port target payload s h => by
  rw [he]
  exact programmeRequest_state h fun p => hk s p payload ▸ h.audio (hg p payload)

theorem keeps_claim : Serve.Keeps State.Watching serveClaim := fun _ _ _ _ h =>
  needFull_state h (needSize_state h (needBelow_state h fun r => by
    split
    · exact h.changeHolder r _
    · exact h))

theorem keeps_release : Serve.Keeps State.Watching serveRelease := fun _ _ _ _ h =>
  needFull_state h (needSize_state h (needBelow_state h fun r => by
    split
    · exact h.changeHolder r _
    · exact h))

theorem keeps_setMode : Serve.Keeps State.Watching serveSetMode := fun _ _ _ _ h =>
  needFull_state h (needSize_state h (needBelow_state h fun p => needValue_state h fun m =>
    needClaim_state h (h.audio (audioOp_changeMode p m))))

theorem keeps_writeProfile : Serve.Keeps State.Watching serveWriteProfile := fun _ _ _ _ h =>
  needFull_state h (by
    split
    · exact h
    · exact needBelow_state h fun p => needBelow_state h fun i => needValue_state h fun _ =>
        needClaim_state h (needIdleSlot_state h (h.audio (audioOp_storeSlot p i _))))

theorem keeps_copyProfile : Serve.Keeps State.Watching serveCopyProfile := fun _ _ _ _ h =>
  needFull_state h (needSize_state h (needBelow_state h fun p => needBelow_state h fun i =>
    needBelow_state h fun _ => needBelow_state h fun _ => by
      split
      · exact h
      · exact needClaim_state h (needIdleSlot_state h (h.audio (audioOp_storeSlot p i _)))))

theorem keeps_setTrim : Serve.Keeps State.Watching serveSetTrim :=
  keeps_of_audio (g := fun p d => (State.onProg · p fun P => { P with trim := limit (-1200) 1200 (word16At d 0).toInt }))
    (fun _ _ => audioOp_onProg _ _) (fun _ _ _ => rfl) fun _ _ _ _ => rfl

theorem keeps_setSchedule : Serve.Keeps State.Watching serveSetSchedule := fun _ _ _ _ h =>
  needFull_state h (needSize_state h (needBelow_state h fun _ => needValue_state h fun _ => needClaim_state h (h.of_same rfl rfl)))

theorem keeps_forceSlot : Serve.Keeps State.Watching serveForceSlot := fun _ _ _ _ h =>
  needFull_state h (needSize_state h (needBelow_state h fun p => needBelow_state h fun _ => needClaim_state h (by
    dsimp only [done]
    split
    · exact h
    · exact h.audio (audioOp_switchSlot p))))

theorem keeps_setCount : Serve.Keeps State.Watching serveSetCount :=
  keeps_of_audio (g := fun p d => (State.onProg · p fun P => { P with front := { P.front with counter := word32At d 0 } }))
    (fun _ _ => audioOp_onProg _ _) (fun _ _ _ => rfl) fun _ _ _ _ => rfl

theorem keeps_restartSegment : Serve.Keeps State.Watching serveRestartSegment :=
  keeps_of_audio (g := fun p _ => (State.onProg · p Programme.restartSegment))
    (fun _ _ => audioOp_onProg _ _) (fun _ _ _ => rfl) fun _ _ _ _ => rfl

theorem keeps_pause : Serve.Keeps State.Watching servePause :=
  keeps_of_audio (g := fun p _ => (State.onProg · p fun P => { P with requestPause := true }))
    (fun _ _ => audioOp_onProg _ _) (fun _ _ _ => rfl) fun _ _ _ _ => rfl

theorem keeps_resume : Serve.Keeps State.Watching serveResume :=
  keeps_of_audio (g := fun p _ => (State.onProg · p fun P => { P with requestPause := false }))
    (fun _ _ => audioOp_onProg _ _) (fun _ _ _ => rfl) fun _ _ _ _ => rfl

theorem keeps_resetProgramme : Serve.Keeps State.Watching serveResetProgramme :=
  keeps_of_audio (g := fun p _ => (State.resetProgramme · p)) (fun p _ => audioOp_resetProgramme p) (fun _ _ _ => rfl)
    fun _ _ _ _ => rfl

theorem keeps_setLink : Serve.Keeps State.Watching serveSetLink := fun _ _ _ _ h =>
  needFull_state h (needSize_state h (needBelow_state h fun k => needValue_state h fun b =>
    needClaim_state h (needClaim_state h (h.audio (audioOp_setLink k b)))))

theorem keeps_loadScanTable : Serve.Keeps State.Watching serveLoadScanTable := fun _ _ _ _ h =>
  needFull_state h (needValue_state h fun _ => needClaim_state h (h.of_same rfl rfl))

theorem keeps_setScanPeriod : Serve.Keeps State.Watching serveSetScanPeriod := fun _ _ _ _ h =>
  needFull_state h (needSize_state h (needClaim_state h (h.of_same rfl rfl)))

theorem keeps_configCue : Serve.Keeps State.Watching serveConfigCue := fun _ _ _ _ h =>
  needFull_state h (needSize_state h (needBelow_state h fun l => needBelow_state h fun _ => needValue_state h fun _ =>
    needValue_state h fun _ => needValue_state h fun _ => needValue_state h fun _ => needClaim_state h (h.configureCue l _)))

theorem keeps_dropCueEntries : Serve.Keeps State.Watching serveDropCueEntries := fun _ _ _ _ h =>
  needFull_state h (needSize_state h (h.of_same rfl rfl))

theorem keeps_resetDevice : Serve.Keeps State.Watching serveResetDevice := fun _ _ _ _ h =>
  needFull_state h (needSize_state h (needClaim_state h (h.of_same rfl rfl)))

/-- A notice request moves the sets of its own station (R194). -/
theorem keeps_notice {f : SourceSet → SourceSet → Notice → Notice} (hf : ∀ now x (n : Notice), n.Proper → (f now x n).Proper) :
    Serve.Keeps State.Watching (serveNotice f) := fun _ _ _ _ h =>
  needSize_state h (needValue_state h fun x => ⟨h.held, fun q => by
    dsimp only [report]
    rw [State.notice_mapNotices]
    split
    · exact hf _ x _ (h.proper q)
    · exact h.proper q⟩)

/-- The service of every row of the table of requests. -/
theorem keeps_requestTable : ∀ row ∈ requestTable, Serve.Keeps State.Watching row.2 := by
  simp only [requestTable, List.forall_mem_cons]
  exact ⟨keeps_of_read serveReadProgramme_state, keeps_of_read serveReadProfile_state, keeps_of_read serveReadHistogram_state,
    keeps_of_read serveReadCueLog_state, keeps_of_read serveReadDevice_state, keeps_of_read serveReadNotices_state,
    keeps_claim, keeps_release, keeps_setMode, keeps_writeProfile, keeps_copyProfile, keeps_setTrim, keeps_setSchedule,
    keeps_forceSlot, keeps_setCount, keeps_restartSegment, keeps_pause, keeps_resume, keeps_resetProgramme, keeps_setLink,
    keeps_loadScanTable, keeps_setScanPeriod, keeps_configCue, keeps_dropCueEntries, keeps_resetDevice,
    keeps_notice fun now x _ h => h.setMask now x, keeps_notice fun now x _ h => h.setModes now x,
    keeps_notice fun _ x _ h => h.acknowledge x, by simp⟩

theorem keeps_code (code : Byte) : Serve.Keeps State.Watching (serveCode code) := by
  unfold serveCode
  cases hf : requestTable.find? (·.1 = code) with
  | none => exact keeps_of_read fun _ _ _ _ => rfl
  | some row => exact keeps_requestTable row (List.mem_of_find?_eq_some hf)

end State.Watching

end Sys2Proof.Machine

/-! PROOFS. The notice sets agree with the masks and the conditions, and a held part stands at its reset values, through every command and
every step (R191, R193, R200). -/

namespace Sys2Proof.Machine

/-! ### Work that changes no condition -/

/-- A port rewritten under the presence of its station. -/
theorem State.conditions_onPort (s : State) (port : Port) {f : PortState → PortState} (hf : ∀ P, (f P).isAbsent = P.isAbsent) :
    (s.onPort port f).conditions = s.conditions :=
  State.conditions_congr rfl rfl rfl Iff.rfl (State.anyAbsent_congr fun q => by rw [State.port_onPort]; split <;> simp only [hf]) rfl

/-- The end of a ramp leaves the limiter reduction (R105). -/
theorem State.conditions_endRamp (s : State) (p : Prog) :
    (s.onProg p fun P => { P with out := P.out.endRamp }).conditions = s.conditions := by
  refine (audioOp_onProg p _).conditions_eq rfl (State.between_onProg Programme.Steady.refl Programme.steady_endRamp s p) fun q => ?_
  rw [State.prog_onProg]
  split <;> rfl

theorem State.clockLost_cycle (s : State) : s.cycle.clockLost = s.clockLost := by
  rw [State.clockLost, State.clockLost, s.cycle_frame]
  cases s.monitor with
  | present n => rfl
  | lost m => cases m <;> rfl

theorem PortState.isAbsent_cycle (P : PortState) : P.cycle.isAbsent = P.isAbsent := by
  cases h : P.presence with
  | present n => rw [PortState.isAbsent, PortState.isAbsent, P.cycle_presence.1 n h, h]
  | absent => rw [PortState.isAbsent, PortState.isAbsent, P.cycle_presence.2 h, h]

/-- The timers of a cycle change no condition; their expiries do, once taken (R4, R165). -/
theorem State.conditions_cycle (s : State) : s.cycle.conditions = s.conditions :=
  State.conditions_congr s.clockLost_cycle rfl rfl Iff.rfl
    (State.anyAbsent_congr fun p => by rw [State.port_cycle, PortState.isAbsent_cycle]) rfl

/-! ### The invariant -/

/-- A held part stands at its reset values, and the notice sets agree with the masks and the conditions. -/
structure State.NoticesSound (s : State) : Prop where
  atReset : s.HeldAtReset
  agree : s.NoticesAgree

/-- The work of a command, once the conditions are followed (R192, R193). -/
theorem State.Watching.followed {s : State} (h : s.Watching) (u : State) : (s.followFrom u).NoticesSound where
  atReset hh := absurd (h.held.symm.trans hh) Bool.false_ne_true
  agree := State.noticesAgree_iff.2 fun p => by
    rw [State.notice_followFrom]
    exact (h.proper p).follow _ _

namespace State.NoticesSound
variable {s t : State}

theorem watching (h : s.NoticesSound) (hh : s.held = false) : s.Watching :=
  ⟨hh, fun p => (State.noticesAgree_iff.1 h.agree p).toProper⟩

/-- Work out of a hold that touches neither a notice set nor a condition. -/
theorem of_same (h : s.NoticesSound) (hh : t.held = false) (hn : t.notices = s.notices) (hc : t.conditions = s.conditions) :
    t.NoticesSound where
  atReset ht := absurd (hh.symm.trans ht) Bool.false_ne_true
  agree := State.noticesAgree_iff.2 fun p => by
    rw [State.notice, hn, hc]
    exact State.noticesAgree_iff.1 h.agree p

theorem onPort (h : s.NoticesSound) (hh : s.held = false) (port : Port) {f : PortState → PortState}
    (hf : ∀ P, (f P).isAbsent = P.isAbsent) : (s.onPort port f).NoticesSound :=
  h.of_same hh rfl (s.conditions_onPort port hf)

/-- Any reset, into a hold or not (R188, R200, R202). -/
theorem resetTo (s : State) (held : Bool) (record : ResetRecord) (access : Port → Access) :
    (s.resetTo held record access).NoticesSound where
  atReset _ := s.resetTo_afterReset held record access
  agree := State.noticesAgree_iff.2 fun p => by
    rw [s.conditions_resetTo, ← State.conditions_reset]
    exact State.noticesAgree_iff.1 State.reset_noticesAgree p

/-- The queue is no part of what a reset or the notice unit sets. -/
theorem withPending (h : s.NoticesSound) (queue : List Instr) : ({ s with pending := queue } : State).NoticesSound :=
  ⟨h.atReset, h.agree⟩

/-- The end of a hold starts the timers from their reset values, where the monitor is LOST and every station PRESENT (R200). -/
theorem endHold (h : s.NoticesSound) (hh : s.held = true) : ({ s with
    held := false, monitor := .lost none
    ports := Vector.ofFn fun p => { s.port p with presence := .present silenceCycles } } : State).NoticesSound := by
  obtain ⟨-, -, -, hmonitor, -, -, -, -, -, -, -, hports, -, -⟩ := h.atReset hh
  refine h.of_same rfl rfl (State.conditions_congr ?_ rfl rfl Iff.rfl (State.anyAbsent_congr fun p => ?_) rfl)
  · rw [State.clockLost, State.clockLost, hmonitor]
  · obtain ⟨-, -, hpresence, -⟩ := hports p
    rw [PortState.isAbsent_present hpresence]
    exact PortState.isAbsent_present (n := silenceCycles) (by simp [State.port])

/-! ### The ports -/

theorem takeMessage (h : s.NoticesSound) (hh : s.held = false) (port : Port) (code target : Byte) (payload : List Byte) :
    (s.takeMessage port code target payload (serveCode code)).NoticesSound := by
  have hw := h.watching hh
  rcases s.takeMessage_cases port code target payload (serveCode code) with e | e | ⟨-, -, e⟩ <;> rw [e]
  · exact h
  · exact (hw.onPort port _).followed s
  · exact ((State.Watching.keeps_code code port target payload _ (hw.hear port)).onPort port _).followed _

theorem receiveByte (h : s.NoticesSound) (hh : s.held = false) (port : Port) (bytes : List Byte) (b : Byte) :
    (s.receiveByte port bytes b).NoticesSound := by
  have hreceive : ∀ x, (s.onPort port fun P => { P with receive := x }).NoticesSound := fun _ => h.onPort hh port fun _ => rfl
  unfold State.receiveByte
  split
  · split <;> exact hreceive _
  split
  · split
    · exact h.takeMessage hh port _ _ _
    · exact hreceive _
  · exact hreceive _

theorem declareAbsent (h : s.NoticesSound) (port : Port) : (s.declareAbsent port).NoticesSound := by
  rcases s.declareAbsent_cases port with ⟨-, e⟩ | ⟨hh, -, -, e⟩ | ⟨hh, -, -, e⟩ <;> rw [e]
  · exact h
  · exact h.onPort hh port fun _ => rfl
  · exact (((h.watching hh).onPort port _).dropClaims port).followed s

/-! ### Every command -/

/-- Every command leaves the notices sound; a request command is the message of its code. -/
theorem exec (h : s.NoticesSound) (c : Instr) : ∃ t, exec c s = .next t ∧ t.NoticesSound := by
  have hif : ∀ {c : Prop} [Decidable c] {t : State}, (c → t.NoticesSound) → (if c then t else s).NoticesSound := fun ht => by
    split
    · exact ht ‹_›
    · exact h
  have hheld : ∀ {t : State}, (s.held = false → t.NoticesSound) → (if s.held = true then s else t).NoticesSound := fun ht => by
    split
    · exact h
    · exact ht (Bool.eq_false_iff.2 ‹_›)
  have unheld : ∀ {b : Bool}, (!s.held && b) = true → s.held = false := fun hc => by
    simpa only [Bool.not_eq_true'] using (Bool.and_eq_true_iff.1 hc).1
  have request : ∀ port code target d, ∃ t,
      Host.Outcome.next (φ := Fault) (ρ := Refusal) (s.takeMessage port code target d (serveCode code)) = .next t ∧
        t.NoticesSound := fun port code target d => by
    refine ⟨_, rfl, ?_⟩
    cases hh : s.held with
    | true => rwa [State.takeMessage_held code target d _ hh]
    | false => exact h.takeMessage hh port code target d
  cases c with
  | powerOn straps => exact ⟨_, rfl, resetTo ..⟩
  | pinReset => exact ⟨_, rfl, hheld fun _ => resetTo ..⟩
  | resetEnd => exact ⟨_, rfl, hif h.endHold⟩
  | frameSync =>
    refine ⟨_, rfl, hheld fun hh => ?_⟩
    split <;> exact h.of_same hh rfl (State.conditions_congr (by simp [State.clockLost, *]) rfl rfl Iff.rfl rfl rfl)
  | inputFrame slots =>
    exact ⟨_, rfl, hif fun hc => (((h.watching (unheld hc)).audio audioOp_carryOut).audio (audioOp_takeFrame slots)).followed s⟩
  | rampEnd p => exact ⟨_, rfl, hheld fun hh => h.of_same hh rfl (s.conditions_endRamp p)⟩
  | subblockCompletion p => exact ⟨_, rfl, hheld fun hh => ((h.watching hh).audio (audioOp_complete p)).followed s⟩
  | scanTick => exact ⟨_, rfl, hheld fun hh => ((h.watching hh).audio audioOp_tick).followed s⟩
  | clockLossDeclaration =>
    exact ⟨_, rfl, hif fun hc => (((h.watching (unheld hc)).audio audioOp_carryOut).audio audioOp_loseClock).followed s⟩
  | returnMeasurementStop =>
    refine ⟨_, rfl, ?_⟩
    split
    · exact h.of_same ‹_› rfl (State.conditions_congr (by simp [State.clockLost, *]) rfl rfl Iff.rfl rfl rfl)
    · exact h
  | clockReturnDeclaration =>
    refine ⟨_, rfl, ?_⟩
    split
    · exact (State.Watching.of_same (t := s.returnClock) (h.watching ‹_›) rfl rfl).followed s
    · exact h
  | cueAssertion l =>
    refine ⟨_, rfl, hif fun hc => ?_⟩
    obtain ⟨hqualifies, -⟩ := Bool.and_eq_true_iff.1 hc
    exact ((h.watching (unheld hqualifies)).assertCue l).followed s
  | cueRelease l =>
    refine ⟨_, rfl, hif fun hc => ?_⟩
    obtain ⟨hqualifies, -⟩ := Bool.and_eq_true_iff.1 hc
    exact ((h.watching (unheld hqualifies)).releaseCue l).followed s
  | cueLineSample pins => exact ⟨_, rfl, hheld fun hh => ((h.watching hh).sampleCues pins).followed s⟩
  | stationAbsence port => exact ⟨_, rfl, h.declareAbsent port⟩
  | interByteTimeout port =>
    refine ⟨_, rfl, ?_⟩
    split
    · exact h.onPort ‹_› port fun _ => rfl
    · exact h
  | messageDiscard port cause =>
    refine ⟨_, rfl, ?_⟩
    split
    · exact hif fun _ => h.onPort ‹_› port fun _ => rfl
    · exact h
  | servingDiscard port =>
    refine ⟨_, rfl, ?_⟩
    split
    · exact ((h.watching ‹_›).onPort port _).followed s
    · exact h
  | responseEnd port =>
    refine ⟨_, rfl, ?_⟩
    split
    · split
      · exact resetTo ..
      · exact h.onPort ‹_› port fun _ => rfl
    · exact h
  | requestedReset =>
    refine ⟨_, rfl, ?_⟩
    split
    · exact resetTo ..
    · exact h
  | byteReceived port b =>
    refine ⟨_, rfl, hheld fun hh => ?_⟩
    split
    · exact hif fun _ => h.onPort hh port fun _ => rfl
    · exact h.receiveByte hh port _ b
  | _ => exact request _ _ _ _

theorem idle (h : s.NoticesSound) : s.idle.NoticesSound := by
  unfold State.idle
  split
  · exact h
  · have hh : s.held = false := Bool.eq_false_iff.2 ‹_›
    split
    · exact h.of_same hh rfl s.conditions_cycle
    · exact h.withPending _

end State.NoticesSound

/-- Settles O56: the front command keeps the notices sound, and so does an idle cycle. -/
theorem stepKeepsTheNotices : Obligations.StepKeepsTheNotices := by
  intro s t hheld hagree ht
  have h : s.NoticesSound := ⟨hheld, hagree⟩
  suffices t.NoticesSound from ⟨this.atReset, this.agree⟩
  cases hq : s.pending with
  | nil =>
    rw [step_nil hq] at ht
    obtain rfl := Host.Outcome.next.inj ht
    exact h.idle
  | cons c rest =>
    rw [step_cons hq] at ht
    obtain ⟨u, hu, hs⟩ := (h.withPending rest).exec c
    obtain rfl := Host.Outcome.next.inj (hu.symm.trans ht)
    exact hs

end Sys2Proof.Machine

/-! PROOFS. SET_NOTICE_MASK, SET_NOTICE_MODE and ACK_NOTICES (R194 to R198). -/

namespace Sys2Proof.Machine

/-! ### The payload (R194) -/

theorem sourceSetOf_of_lt {w : BitVec 16} (h : w.toNat < 2 ^ 13) : sourceSetOf w = some (w.setWidth 13) := if_pos h

theorem sourceSetOf_of_le {w : BitVec 16} (h : 2 ^ 13 ≤ w.toNat) : sourceSetOf w = none := if_neg (Nat.not_lt.2 h)

theorem word16At_payload (w : BitVec 16) : word16At (bytes16 w) 0 = w := word16At_bytes16 w []

/-- The payload of a set, and the set itself, source by source. -/
theorem getLsbD_sourceSet (w : BitVec 16) (i : Fin 13) : (w.setWidth 13).getLsbD i.val = w.getLsbD i.val := by
  rw [BitVec.getLsbD_setWidth, decide_eq_true i.isLt, Bool.true_and]

/-! ### The sets and the pin of one station -/

/-- ATNs is low while its station has a source pending and high while it has none (R198). -/
theorem State.attentionPin_eq (s : State) (p : Port) : s.attentionPin p = decide ((s.notice p).pending = 0) := by
  rw [State.attentionPin, State.attention, decide_not, Bool.not_not]

/-- The sets of station `port` rewritten by `f`. -/
def State.onNotice (s : State) (port : Port) (f : Notice → Notice) : State :=
  s.mapNotices fun p n => if p = port then f n else n

theorem State.notice_onNotice (s : State) (port q : Port) (f : Notice → Notice) :
    (s.onNotice port f).notice q = if q = port then f (s.notice q) else s.notice q := s.notice_mapNotices _ q

theorem State.conditions_onNotice (s : State) (port : Port) (f : Notice → Notice) : (s.onNotice port f).conditions = s.conditions := rfl

theorem State.onNotice_ports (s : State) (port : Port) (f : Notice → Notice) : (s.onNotice port f).ports = s.ports := rfl

/-- Once a station is heard, the sets agree with the conditions as its return leaves them (R165, R193). -/
theorem State.NoticesAgree.hear {s : State} (h : s.NoticesAgree) (port q : Port) :
    ((s.hear port).notice q).Agrees (s.hear port).conditions := by
  rw [State.notice_hear]
  exact (State.noticesAgree_iff.1 h q).toProper.follow _ _

/-! ### The answer -/

section Answer
variable (s : State) (port : Port) (code target : Byte) (a : Reply)

theorem State.port_answer (q : Port) : (s.answer port code target a).port q =
    if q = port then { a.state.port q with serving := some (responseTo code target a) } else a.state.port q := by
  rw [State.answer, State.port_followFrom, State.port_onPort]

theorem State.conditions_answer : (s.answer port code target a).conditions = a.state.conditions := by
  rw [State.answer, State.conditions_followFrom]
  exact a.state.conditions_onPort port (f := fun P => { P with serving := some (responseTo code target a) }) fun _ => rfl

variable {s port code target a}

/-- Beside its port and the notice sets, an answer leaves what the service left. -/
theorem State.answer_frame : s.answer port code target a =
    { a.state with ports := (s.answer port code target a).ports, notices := (s.answer port code target a).notices } := rfl

/-- A request is heard and answered, where its service left the ports as the hearing did. -/
theorem State.heard_answer (hp : a.state.ports = (s.hear port).ports) :
    s.Heard ((s.hear port).answer port code target a) port (some (responseTo code target a)) := by
  have hport : ∀ q, a.state.port q = (s.hear port).port q := fun q => by rw [State.port, State.port, hp]
  refine ⟨?_, fun q hq => ?_⟩
  · rw [State.port_answer, if_pos rfl, hport, State.port_hear, if_pos rfl]
    rfl
  · rw [State.port_answer, if_neg hq, hport, State.port_hear, if_neg hq]

/-- Where the service changed no condition, the answer leaves the sets that agree with the conditions. -/
theorem State.notice_answer (hc : a.state.conditions = s.conditions) {q : Port} (hq : (a.state.notice q).Agrees s.conditions) :
    (s.answer port code target a).notice q = a.state.notice q := by
  have hfollow : (s.answer port code target a).notice q =
      (a.state.notice q).follow s.conditions (s.answer port code target a).conditions := State.notice_followFrom _ s q
  rw [hfollow, State.conditions_answer, hc, hq.follow_self]

/-- An answer where the service rewrote the sets of the station itself. -/
theorem State.notice_answer_onNotice {g : Notice → Notice} (ha : a.state = s.onNotice port g)
    (hs : ∀ q, (s.notice q).Agrees s.conditions) (hg : ∀ n : Notice, n.Agrees s.conditions → (g n).Agrees s.conditions) (q : Port) :
    (s.answer port code target a).notice q = if q = port then g (s.notice q) else s.notice q := by
  have hset : a.state.notice q = if q = port then g (s.notice q) else s.notice q := by rw [ha, State.notice_onNotice]
  rw [State.notice_answer (by rw [ha, State.conditions_onNotice]), hset]
  rw [hset]
  split
  · exact hg _ (hs q)
  · exact hs q

end Answer

/-! ### The service -/

section Service
variable {f : SourceSet → SourceSet → Notice → Notice} {code target : Byte} {c : RequestCommand} {s : State} {port : Port}
  {w : BitVec 16}

theorem serveNotice_set (hw : w.toNat < 2 ^ 13) : serveNotice f port target (bytes16 w) s =
    report (s.onNotice port (f s.conditions (w.setWidth 13)))
      (setBytes (f s.conditions (w.setWidth 13) (s.notice port)).pending) := by
  rw [serveNotice, needSize_eq (n := 2) rfl, word16At_payload, needValue_some (sourceSetOf_of_lt hw)]
  have hn := s.notice_onNotice port port (f s.conditions (w.setWidth 13))
  rw [if_pos rfl] at hn
  rw [← hn]
  rfl

/-- A set with a bit that is no source (R194). -/
theorem Serves.refuses_set (hc : Serves (serveNotice f) code c) (h : s.Ready port) (hw : 2 ^ 13 ≤ w.toNat) :
    ∃ t, exec (c port target (bytes16 w)) s = .next t ∧ s.Refuses t port code target .badRequest [] :=
  hc.refuses h (by decide : (2 : Nat) ≤ 48)
    (by rw [serveNotice, needSize_eq (n := 2) rfl, word16At_payload, needValue_none (sourceSetOf_of_le hw)])

/-- A notice request rewrites the sets that its station has once it is heard, and those alone; its response is the pending set that it
leaves. -/
theorem Serves.rewrites_sets (hc : Serves (serveNotice f) code c) (h : s.Ready port) (hs : s.NoticesAgree) (hw : w.toNat < 2 ^ 13)
    (hf : ∀ now x (n : Notice), n.Agrees now → (f now x n).Agrees now) :
    ∃ t, exec (c port target (bytes16 w)) s = .next t ∧
      s.Heard t port (some (frameMessage
        (code :: target :: Result.ok.code :: bytes16 ((t.notice port).pending.setWidth 16)))) ∧
      t = { s with ports := t.ports, notices := t.notices } ∧
      (∀ q, q ≠ port → t.notice q = (s.notice q).follow s.conditions t.conditions) ∧
      t.notice port = f t.conditions (w.setWidth 13) ((s.notice port).follow s.conditions t.conditions) := by
  generalize hv : s.hear port = v
  generalize ha : serveNotice f port target (bytes16 w) v = a
  rw [serveNotice_set hw] at ha
  have hstate : a.state = v.onNotice port (f v.conditions (w.setWidth 13)) := by rw [← ha, report]
  have hcond : (v.answer port code target a).conditions = v.conditions := by
    rw [State.conditions_answer, hstate, State.conditions_onNotice]
  have hnotice : ∀ q, (v.answer port code target a).notice q =
      if q = port then f v.conditions (w.setWidth 13) (v.notice q) else v.notice q :=
    State.notice_answer_onNotice hstate (hv ▸ hs.hear port) (hf v.conditions (w.setWidth 13))
  have hresponse : responseTo code target a = frameMessage (code :: target :: Result.ok.code ::
      bytes16 (((v.answer port code target a).notice port).pending.setWidth 16)) := by
    rw [hnotice, if_pos rfl, responseTo, ← ha, report, setBytes]
  refine ⟨v.answer port code target a, ?_, ?_, ?_, fun q hq => ?_, ?_⟩
  · rw [hc, State.takeMessage_ready (payload := bytes16 w) code target _ h (by decide : (2 : Nat) ≤ 48), hv, serveNotice_set hw, ha]
  · rw [← hresponse, ← hv]
    exact State.heard_answer (by rw [hstate, State.onNotice_ports, hv])
  · rw [State.answer_frame, hstate, ← hv]
    rfl
  · rw [hnotice, if_neg hq, hcond, ← hv, State.notice_hear]
  · rw [hnotice, if_pos rfl, hcond, ← hv, State.notice_hear]

end Service

/-- Settles O50: the numbers of the sources, and each request by the move that it makes of its station's sets. -/
theorem noticeRequestsAct : Obligations.NoticeRequestsAct := by
  refine ⟨?numbers, conditionSources_getLsbD, fun s port target w h hs => ⟨?mask, ?mode, ?ack⟩⟩
  case numbers =>
    show ∀ x ∈ [Source.deviceReset, .clockLost, .deviationWarn, .deviationFault, .settledChange, .subblockLost, .cueBacklog,
      .cueOverflow, .slotSwitched, .claimChanged, .stationAbsent, .limiterHeavy, .outputClipped].map fun x => (x, x.num), _
    exact List.forall_mem_map.2 fun x _ => x.bit_getLsbD
  case mask =>
    have hserves : Serves serveSetNoticeMask 0x40 .setNoticeMask := fun _ _ _ _ => rfl
    refine ⟨hserves.refuses_set h, fun hw => ?_⟩
    obtain ⟨t, hx, hheard, hframe, hothers, hown⟩ := hserves.rewrites_sets h hs hw fun _ x _ hn => hn.setMask x
    refine ⟨t, hx, hheard, hframe, hothers, t.attentionPin_eq, ?_⟩
    rw [hown]
    refine ⟨rfl, rfl, fun i => ?_⟩
    rw [← getLsbD_sourceSet]
    have hfollowed := (State.noticesAgree_iff.1 hs port).toProper.follow s.conditions t.conditions
    exact hfollowed.setMask_pending t.conditions _ i
  case mode =>
    have hserves : Serves serveSetNoticeMode 0x41 .setNoticeMode := fun _ _ _ _ => rfl
    refine ⟨hserves.refuses_set h, fun hw => ?_⟩
    obtain ⟨t, hx, hheard, hframe, hothers, hown⟩ := hserves.rewrites_sets h hs hw fun _ x _ hn => hn.setModes x
    refine ⟨t, hx, hheard, hframe, hothers, t.attentionPin_eq, ?_⟩
    rw [hown]
    exact ⟨rfl, rfl, fun i => Notice.setModes_pending t.conditions _ i⟩
  case ack =>
    have hserves : Serves serveAckNotices 0x42 .ackNotices := fun _ _ _ _ => rfl
    refine ⟨hserves.refuses_set h, fun hw => ?_⟩
    obtain ⟨t, hx, hheard, hframe, hothers, hown⟩ := hserves.rewrites_sets h hs hw fun _ x _ hn => hn.acknowledge x
    refine ⟨t, hx, hheard, hframe, hothers, t.attentionPin_eq, ?_⟩
    rw [hown]
    refine ⟨rfl, rfl, fun i => ?_⟩
    rw [← getLsbD_sourceSet]
    exact Notice.acknowledge_pending _ i

end Sys2Proof.Machine

/-! PROOFS. The queue of waiting commands: a step takes its front, and no command changes it. -/

namespace Sys2Proof.Machine

/-- Settles O1: the step on a queue with a front. -/
theorem stepRunsTheFrontCommand : Obligations.StepRunsTheFrontCommand := fun _ _ _ => step_cons

/-! ### The operations -/

/-- An operation that goes one of two ways. -/
theorem State.ite_pending {c : Prop} [Decidable c] {s t u : State} (ht : t.pending = s.pending) (hu : u.pending = s.pending) :
    (if c then t else u).pending = s.pending := by
  split <;> assumption

theorem State.configureCue_pending (s : State) (l : CueLine) (f : CueConfig) : (s.configureCue l f).pending = s.pending := by
  rw [State.configureCue_frame]

/-! ### The requests -/

/-- A reply made in `s` leaves the queue. -/
def Reply.SameQueue (s : State) (a : Reply) : Prop := a.state.pending = s.pending

namespace Reply.SameQueue
variable {s : State} {port : Port} {a : Reply}

/-! A check answers from the state as it is, or lets the request go on (R163, R179). -/

theorem needFull (h : a.SameQueue s) : (needFull port s a).SameQueue s := needFull_state (I := (·.pending = s.pending)) rfl h

theorem needSize {n : Nat} {d : List Byte} (h : a.SameQueue s) : (needSize n d s a).SameQueue s :=
  needSize_state (I := (·.pending = s.pending)) rfl h

theorem needBelow {n : Nat} {b : Byte} {k : Fin n → Reply} (h : ∀ i, (k i).SameQueue s) : (needBelow n b s k).SameQueue s :=
  needBelow_state (I := (·.pending = s.pending)) rfl h

theorem needValue {α : Type} {x : Option α} {k : α → Reply} (h : ∀ v, (k v).SameQueue s) : (needValue x s k).SameQueue s :=
  needValue_state (I := (·.pending = s.pending)) rfl h

theorem needClaim {r : ClaimRecord} (h : a.SameQueue s) : (needClaim port r s a).SameQueue s :=
  needClaim_state (I := (·.pending = s.pending)) rfl h

theorem needIdleSlot {p : Prog} {i : Slot} (h : a.SameQueue s) : (needIdleSlot p i s a).SameQueue s :=
  needIdleSlot_state (I := (·.pending = s.pending)) rfl h

end Reply.SameQueue

/-- A request served so leaves the queue. -/
def Serve.LeavesQueue (serve : Serve) : Prop := ∀ port target payload s, (serve port target payload s).SameQueue s

namespace Serve.LeavesQueue

theorem of_read {serve : Serve} (hr : ∀ port target payload (s : State), (serve port target payload s).state = s) :
    serve.LeavesQueue := fun port target payload s => congrArg State.pending (hr port target payload s)

theorem claim : LeavesQueue serveClaim := fun _ _ _ _ => .needFull (.needSize (.needBelow fun _ => by split <;> rfl))

theorem release : LeavesQueue serveRelease := fun _ _ _ _ => .needFull (.needSize (.needBelow fun _ => by split <;> rfl))

theorem setMode : LeavesQueue serveSetMode := fun _ _ _ s =>
  .needFull (.needSize (.needBelow fun p => .needValue fun m => .needClaim ((audioOp_changeMode p m).pending s)))

theorem writeProfile : LeavesQueue serveWriteProfile := fun _ _ _ s => .needFull (by
  split
  · rfl
  · exact .needBelow fun p => .needBelow fun i => .needValue fun _ =>
      .needClaim (.needIdleSlot ((audioOp_storeSlot p i _).pending s)))

theorem copyProfile : LeavesQueue serveCopyProfile := fun _ _ _ s =>
  .needFull (.needSize (.needBelow fun p => .needBelow fun i => .needBelow fun _ => .needBelow fun _ => by
    split
    · rfl
    · exact .needClaim (.needIdleSlot ((audioOp_storeSlot p i _).pending s))))

theorem setTrim : LeavesQueue serveSetTrim := fun _ _ _ _ => .needFull (.needSize (.needBelow fun _ => .needClaim rfl))

theorem setSchedule : LeavesQueue serveSetSchedule := fun _ _ _ _ =>
  .needFull (.needSize (.needBelow fun _ => .needValue fun _ => .needClaim rfl))

theorem forceSlot : LeavesQueue serveForceSlot := fun _ _ _ s =>
  .needFull (.needSize (.needBelow fun p => .needBelow fun _ =>
    .needClaim (State.ite_pending rfl ((audioOp_switchSlot p).pending s))))

theorem setCount : LeavesQueue serveSetCount := fun _ _ _ _ => .needFull (.needSize (.needBelow fun _ => .needClaim rfl))

theorem restartSegment : LeavesQueue serveRestartSegment := fun _ _ _ _ => .needFull (.needSize (.needBelow fun _ => .needClaim rfl))

theorem pause : LeavesQueue servePause := fun _ _ _ _ => .needFull (.needSize (.needBelow fun _ => .needClaim rfl))

theorem resume : LeavesQueue serveResume := fun _ _ _ _ => .needFull (.needSize (.needBelow fun _ => .needClaim rfl))

theorem resetProgramme : LeavesQueue serveResetProgramme := fun _ _ _ s =>
  .needFull (.needSize (.needBelow fun p => .needClaim ((audioOp_resetProgramme p).pending s)))

theorem setLink : LeavesQueue serveSetLink := fun _ _ _ s =>
  .needFull (.needSize (.needBelow fun k => .needValue fun b => .needClaim (.needClaim ((audioOp_setLink k b).pending s))))

theorem loadScanTable : LeavesQueue serveLoadScanTable := fun _ _ _ _ => .needFull (.needValue fun _ => .needClaim rfl)

theorem setScanPeriod : LeavesQueue serveSetScanPeriod := fun _ _ _ _ => .needFull (.needSize (.needClaim rfl))

theorem configCue : LeavesQueue serveConfigCue := fun _ _ _ s =>
  .needFull (.needSize (.needBelow fun l => .needBelow fun _ => .needValue fun _ => .needValue fun _ => .needValue fun _ =>
    .needValue fun _ => .needClaim (s.configureCue_pending l _)))

theorem dropCueEntries : LeavesQueue serveDropCueEntries := fun _ _ _ _ => .needFull (.needSize rfl)

theorem resetDevice : LeavesQueue serveResetDevice := fun _ _ _ _ => .needFull (.needSize (.needClaim rfl))

theorem notice (f : SourceSet → SourceSet → Notice → Notice) : LeavesQueue (serveNotice f) := fun _ _ _ _ =>
  .needSize (.needValue fun _ => rfl)

/-- The service of every row of the table of requests. -/
theorem requestTable : ∀ row ∈ requestTable, LeavesQueue row.2 := by
  simp only [Machine.requestTable, List.forall_mem_cons]
  exact ⟨of_read serveReadProgramme_state, of_read serveReadProfile_state, of_read serveReadHistogram_state,
    of_read serveReadCueLog_state, of_read serveReadDevice_state, of_read serveReadNotices_state, claim, release, setMode,
    writeProfile, copyProfile, setTrim, setSchedule, forceSlot, setCount, restartSegment, pause, resume, resetProgramme, setLink,
    loadScanTable, setScanPeriod, configCue, dropCueEntries, resetDevice, notice _, notice _, notice _, by simp⟩

theorem code (code : Byte) : LeavesQueue (serveCode code) := by
  unfold serveCode
  cases hf : Machine.requestTable.find? (·.1 = code) with
  | none => exact of_read fun _ _ _ _ => rfl
  | some row => exact requestTable row (List.mem_of_find?_eq_some hf)

end Serve.LeavesQueue

/-! ### The ports -/

section Ports
variable {s : State} {port : Port}

theorem State.takeMessage_pending (code target : Byte) (payload : List Byte) :
    (s.takeMessage port code target payload (serveCode code)).pending = s.pending := by
  rcases s.takeMessage_cases port code target payload (serveCode code) with e | e | ⟨-, -, e⟩ <;> rw [e]
  · rfl
  · exact Serve.LeavesQueue.code code port target payload (s.hear port)

theorem State.receiveByte_pending (bytes : List Byte) (b : Byte) : (s.receiveByte port bytes b).pending = s.pending := by
  unfold State.receiveByte
  split
  · split <;> rfl
  split
  · split
    · exact State.takeMessage_pending ..
    · rfl
  · rfl

theorem State.declareAbsent_pending (s : State) (port : Port) : (s.declareAbsent port).pending = s.pending := by
  rcases s.declareAbsent_cases port with ⟨-, e⟩ | ⟨-, -, -, e⟩ | ⟨-, -, -, e⟩ <;> rw [e]
  · rfl
  · rw [State.followFrom_pending, State.dropClaims_frame]
    rfl

end Ports

/-! ### Every command -/

/-- Every command answers a state with the queue as it was; a request command is the message of its code. -/
theorem exec_pending (c : Instr) (s : State) : ∃ t, exec c s = .next t ∧ t.pending = s.pending := by
  have request : ∀ port code target d, ∃ t,
      Host.Outcome.next (φ := Fault) (ρ := Refusal) (s.takeMessage port code target d (serveCode code)) = .next t ∧
        t.pending = s.pending := fun _ _ _ _ => ⟨_, rfl, State.takeMessage_pending ..⟩
  have followed : ∀ {t : State}, t.pending = s.pending → (t.followFrom s).pending = s.pending := fun ht => ht
  cases c with
  | powerOn straps => exact ⟨_, rfl, rfl⟩
  | pinReset => exact ⟨_, rfl, State.ite_pending rfl rfl⟩
  | resetEnd => exact ⟨_, rfl, State.ite_pending rfl rfl⟩
  | frameSync => exact ⟨_, rfl, State.ite_pending rfl (by split <;> rfl)⟩
  | inputFrame slots =>
    exact ⟨_, rfl, State.ite_pending (followed ((audioOp_carryOut.comp (audioOp_takeFrame slots)).pending s)) rfl⟩
  | rampEnd p => exact ⟨_, rfl, State.ite_pending rfl rfl⟩
  | subblockCompletion p => exact ⟨_, rfl, State.ite_pending rfl (followed ((audioOp_complete p).pending s))⟩
  | scanTick => exact ⟨_, rfl, State.ite_pending rfl (followed (audioOp_tick.pending s))⟩
  | clockLossDeclaration => exact ⟨_, rfl, State.ite_pending (followed ((audioOp_carryOut.comp audioOp_loseClock).pending s)) rfl⟩
  | returnMeasurementStop => exact ⟨_, rfl, by split <;> rfl⟩
  | clockReturnDeclaration => exact ⟨_, rfl, by split <;> rfl⟩
  | cueAssertion l => exact ⟨_, rfl, State.ite_pending (followed (s.assertCue_becomes l).pending) rfl⟩
  | cueRelease l => exact ⟨_, rfl, State.ite_pending (followed (s.releaseCue_becomes l).pending) rfl⟩
  | cueLineSample pins => exact ⟨_, rfl, State.ite_pending rfl (followed (s.sampleCues_becomes pins).pending)⟩
  | stationAbsence port => exact ⟨_, rfl, s.declareAbsent_pending port⟩
  | interByteTimeout port => exact ⟨_, rfl, by split <;> rfl⟩
  | messageDiscard port cause =>
    refine ⟨_, rfl, ?_⟩
    split
    · exact State.ite_pending rfl rfl
    · rfl
  | servingDiscard port => exact ⟨_, rfl, by split <;> rfl⟩
  | responseEnd port =>
    refine ⟨_, rfl, ?_⟩
    split
    · exact State.ite_pending rfl rfl
    · rfl
  | requestedReset => exact ⟨_, rfl, by split <;> rfl⟩
  | byteReceived port b =>
    refine ⟨_, rfl, State.ite_pending rfl ?_⟩
    split
    · exact State.ite_pending rfl rfl
    · exact State.receiveByte_pending ..
  | _ => exact request _ _ _ _

/-- Settles O2: the one answer of a command holds the queue as it was. -/
theorem commandsLeaveTheQueue : Obligations.CommandsLeaveTheQueue := by
  intro c s t ht
  obtain ⟨u, hu, hq⟩ := exec_pending c s
  obtain rfl := Host.Outcome.next.inj (hu.symm.trans ht)
  exact hq

end Sys2Proof.Machine
